-- ==== Sys2Proof/Word.lean ====
section
/-!
DEFINITION. The machine word and the byte (spec/00_scope.md rule R6, spec/10_state.md rule R10, spec/20_memory.md rule R40).
The spec's `unsigned(v)` is `v.toNat`, its `signed(v)` is `v.toInt`, and `+` on words is modulo 2^32 (spec/00_scope.md section 7).
-/

namespace Sys2Proof

/-- A 32-bit value: a register, the program counter, an address, an instruction (R6: XLEN = 32). -/
abbrev Word := BitVec 32

/-- The byte one address names (R40). -/
abbrev Byte := BitVec 8

end Sys2Proof
end

