-- ==== Sys2Proof/Syntax.lean ====
section
/-!
DEFINITION. The 46 instructions, one constructor per row of spec/opcode_table.json (spec/30_encoding.md rule R75).
Operands stand in the order of the assembly forms of rule R80, registers first and the immediate last.
An immediate is the field as the instruction word holds it, put in order and not yet extended to 32 bits (rules R66 to R71).
-/

namespace Sys2Proof

/-- A register index, 0 .. 31 (spec/10_state.md rule R10). -/
abbrev Reg := Fin 32

/-- The instructions of rule R75. -/
inductive Instr where
  -- register with register, spec/41_op_register.md and spec/42_muldiv.md: `OP rd, rs1, rs2`
  | add (rd rs1 rs2 : Reg)
  | sub (rd rs1 rs2 : Reg)
  | sll (rd rs1 rs2 : Reg)
  | slt (rd rs1 rs2 : Reg)
  | sltu (rd rs1 rs2 : Reg)
  | xor (rd rs1 rs2 : Reg)
  | srl (rd rs1 rs2 : Reg)
  | sra (rd rs1 rs2 : Reg)
  | or (rd rs1 rs2 : Reg)
  | and (rd rs1 rs2 : Reg)
  | mul (rd rs1 rs2 : Reg)
  | mulh (rd rs1 rs2 : Reg)
  | mulhsu (rd rs1 rs2 : Reg)
  | mulhu (rd rs1 rs2 : Reg)
  | div (rd rs1 rs2 : Reg)
  | divu (rd rs1 rs2 : Reg)
  | rem (rd rs1 rs2 : Reg)
  | remu (rd rs1 rs2 : Reg)
  -- register with immediate, spec/43_op_immediate.md: `OP rd, rs1, imm` and `OP rd, rs1, shamt`
  | addi (rd rs1 : Reg) (imm : BitVec 12)
  | slti (rd rs1 : Reg) (imm : BitVec 12)
  | sltiu (rd rs1 : Reg) (imm : BitVec 12)
  | xori (rd rs1 : Reg) (imm : BitVec 12)
  | ori (rd rs1 : Reg) (imm : BitVec 12)
  | andi (rd rs1 : Reg) (imm : BitVec 12)
  | slli (rd rs1 : Reg) (shamt : BitVec 5)
  | srli (rd rs1 : Reg) (shamt : BitVec 5)
  | srai (rd rs1 : Reg) (shamt : BitVec 5)
  -- loads, spec/44_load_store.md: `OP rd, imm(rs1)`
  | lb (rd rs1 : Reg) (imm : BitVec 12)
  | lh (rd rs1 : Reg) (imm : BitVec 12)
  | lw (rd rs1 : Reg) (imm : BitVec 12)
  | lbu (rd rs1 : Reg) (imm : BitVec 12)
  | lhu (rd rs1 : Reg) (imm : BitVec 12)
  -- stores, spec/44_load_store.md: `OP rs2, imm(rs1)`, `rs2` the data and `rs1` the base
  | sb (rs2 rs1 : Reg) (imm : BitVec 12)
  | sh (rs2 rs1 : Reg) (imm : BitVec 12)
  | sw (rs2 rs1 : Reg) (imm : BitVec 12)
  -- conditional branches, spec/45_branch.md: `OP rs1, rs2, offset`, the 13-bit byte offset of rule R68
  | beq (rs1 rs2 : Reg) (offset : BitVec 13)
  | bne (rs1 rs2 : Reg) (offset : BitVec 13)
  | blt (rs1 rs2 : Reg) (offset : BitVec 13)
  | bge (rs1 rs2 : Reg) (offset : BitVec 13)
  | bltu (rs1 rs2 : Reg) (offset : BitVec 13)
  | bgeu (rs1 rs2 : Reg) (offset : BitVec 13)
  -- jumps, spec/46_jump.md: `JAL rd, offset` (the 21-bit byte offset of rule R70) and `JALR rd, imm(rs1)`
  | jal (rd : Reg) (offset : BitVec 21)
  | jalr (rd rs1 : Reg) (imm : BitVec 12)
  -- upper immediates, spec/47_upper_immediate.md: `OP rd, imm20`
  | lui (rd : Reg) (imm20 : BitVec 20)
  | auipc (rd : Reg) (imm20 : BitVec 20)
  -- spec/48_system.md: every word of the SYSTEM opcode (rules R78, R201)
  | ecall
  deriving DecidableEq, Repr

end Sys2Proof
end

