-- ==== Sys2Proof/WellFormed.lean ====
section
/-!
DEFINITION. Which instructions an instruction word can hold. Register indices, 12-bit immediates, shift amounts and the 20-bit
upper immediates are bounded by their types; what is left to check is that bit 0 of a branch or JAL offset is 0, because the
B and J formats have no place for it (spec/30_encoding.md rules R68 and R70).
-/

namespace Sys2Proof

/-- Bit 0 of a control-transfer offset is always 0 (rules R68, R70). -/
def evenOffset {n : Nat} (offset : BitVec n) : Bool := !offset.getLsbD 0

/-- The instruction can be encoded. -/
def Instr.wf : Instr → Bool
  | .add _ _ _ => true
  | .sub _ _ _ => true
  | .sll _ _ _ => true
  | .slt _ _ _ => true
  | .sltu _ _ _ => true
  | .xor _ _ _ => true
  | .srl _ _ _ => true
  | .sra _ _ _ => true
  | .or _ _ _ => true
  | .and _ _ _ => true
  | .mul _ _ _ => true
  | .mulh _ _ _ => true
  | .mulhsu _ _ _ => true
  | .mulhu _ _ _ => true
  | .div _ _ _ => true
  | .divu _ _ _ => true
  | .rem _ _ _ => true
  | .remu _ _ _ => true
  | .addi _ _ _ => true
  | .slti _ _ _ => true
  | .sltiu _ _ _ => true
  | .xori _ _ _ => true
  | .ori _ _ _ => true
  | .andi _ _ _ => true
  | .slli _ _ _ => true
  | .srli _ _ _ => true
  | .srai _ _ _ => true
  | .lb _ _ _ => true
  | .lh _ _ _ => true
  | .lw _ _ _ => true
  | .lbu _ _ _ => true
  | .lhu _ _ _ => true
  | .sb _ _ _ => true
  | .sh _ _ _ => true
  | .sw _ _ _ => true
  | .beq _ _ offset => evenOffset offset
  | .bne _ _ offset => evenOffset offset
  | .blt _ _ offset => evenOffset offset
  | .bge _ _ offset => evenOffset offset
  | .bltu _ _ offset => evenOffset offset
  | .bgeu _ _ offset => evenOffset offset
  | .jal _ offset => evenOffset offset
  | .jalr _ _ _ => true
  | .lui _ _ => true
  | .auipc _ _ => true
  | .ecall => true

end Sys2Proof
end

