-- ==== Sys2Proof/Decode.lean ====
section
/-!
DEFINITION. Decoding and encoding instruction words (spec/30_encoding.md). A word matching no row of the opcode table is rejected,
by the name of what the core does not recognise in it (rules R76, R77). The encoder is written from the same tables and is the
inverse the round-trip claims speak of. Field positions and numeric codes are those of rules R61, R62, R72, R73 (log entry 21).
-/

namespace Sys2Proof

/-! ## Fields and immediates of a word -/

/-- A 5-bit register field as a register index (R10, R61). -/
def regOf (field : BitVec 5) : Reg := field.toFin
/-- A register index as a 5-bit field. -/
def regBits (r : Reg) : BitVec 5 := BitVec.ofFin r
/-- `inst[6:0]` (R61). -/
def opcodeOf (w : Word) : BitVec 7 := w.extractLsb' 0 7
/-- `inst[14:12]` (R61). -/
def funct3Of (w : Word) : BitVec 3 := w.extractLsb' 12 3
/-- `inst[31:25]` (R61). -/
def funct7Of (w : Word) : BitVec 7 := w.extractLsb' 25 7
/-- `inst[11:7]` (R61). -/
def rdOf (w : Word) : Reg := regOf (w.extractLsb' 7 5)
/-- `inst[19:15]` (R61). -/
def rs1Of (w : Word) : Reg := regOf (w.extractLsb' 15 5)
/-- `inst[24:20]` (R61). -/
def rs2Of (w : Word) : Reg := regOf (w.extractLsb' 20 5)
/-- `inst[24:20]` as the shift amount of the immediate shifts (R71). -/
def shamtOf (w : Word) : BitVec 5 := w.extractLsb' 20 5
/-- The I immediate's 12 bits, `inst[31:20]` (R66). -/
def immIOf (w : Word) : BitVec 12 := w.extractLsb' 20 12
/-- The S immediate's 12 bits, `inst[31:25] ++ inst[11:7]` (R67). -/
def immSOf (w : Word) : BitVec 12 := w.extractLsb' 25 7 ++ w.extractLsb' 7 5
/-- The B immediate's 13 bits, `inst[31] ++ inst[7] ++ inst[30:25] ++ inst[11:8] ++ 0` (R68). -/
def immBOf (w : Word) : BitVec 13 :=
  w.extractLsb' 31 1 ++ w.extractLsb' 7 1 ++ w.extractLsb' 25 6 ++ w.extractLsb' 8 4 ++ 0#1
/-- The U immediate's 20 bits, `inst[31:12]` (R69). -/
def immUOf (w : Word) : BitVec 20 := w.extractLsb' 12 20
/-- The J immediate's 21 bits, `inst[31] ++ inst[19:12] ++ inst[20] ++ inst[30:21] ++ 0` (R70). -/
def immJOf (w : Word) : BitVec 21 :=
  w.extractLsb' 31 1 ++ w.extractLsb' 12 8 ++ w.extractLsb' 20 1 ++ w.extractLsb' 21 10 ++ 0#1

/-! ## Decoding -/

/-- Why bytes are no instruction. -/
inductive DecodeError where
  /-- `inst[6:0]` is none of the ten opcodes of rule R72 (R76). -/
  | unrecognisedOpcode (inst : Word)
  /-- The opcode is recognised, its `funct3` or `funct7` selects nothing (R77). -/
  | reservedMinor (inst : Word)
  /-- Fewer than the four bytes of an instruction (R60); a fetch never gives so few. -/
  | truncated
  deriving DecidableEq, Repr

/-- The OP class: `funct7` and `funct3` select (R73, R96). -/
def decodeOp (w : Word) : Except DecodeError Instr :=
  let f3 := funct3Of w
  if funct7Of w = 0b0000000#7 then
    if f3 = 0b000#3 then .ok (.add (rdOf w) (rs1Of w) (rs2Of w))
    else if f3 = 0b001#3 then .ok (.sll (rdOf w) (rs1Of w) (rs2Of w))
    else if f3 = 0b010#3 then .ok (.slt (rdOf w) (rs1Of w) (rs2Of w))
    else if f3 = 0b011#3 then .ok (.sltu (rdOf w) (rs1Of w) (rs2Of w))
    else if f3 = 0b100#3 then .ok (.xor (rdOf w) (rs1Of w) (rs2Of w))
    else if f3 = 0b101#3 then .ok (.srl (rdOf w) (rs1Of w) (rs2Of w))
    else if f3 = 0b110#3 then .ok (.or (rdOf w) (rs1Of w) (rs2Of w))
    else .ok (.and (rdOf w) (rs1Of w) (rs2Of w)) -- 111, the last of the eight
  else if funct7Of w = 0b0100000#7 then
    if f3 = 0b000#3 then .ok (.sub (rdOf w) (rs1Of w) (rs2Of w))
    else if f3 = 0b101#3 then .ok (.sra (rdOf w) (rs1Of w) (rs2Of w))
    else .error (.reservedMinor w)
  else if funct7Of w = 0b0000001#7 then
    if f3 = 0b000#3 then .ok (.mul (rdOf w) (rs1Of w) (rs2Of w))
    else if f3 = 0b001#3 then .ok (.mulh (rdOf w) (rs1Of w) (rs2Of w))
    else if f3 = 0b010#3 then .ok (.mulhsu (rdOf w) (rs1Of w) (rs2Of w))
    else if f3 = 0b011#3 then .ok (.mulhu (rdOf w) (rs1Of w) (rs2Of w))
    else if f3 = 0b100#3 then .ok (.div (rdOf w) (rs1Of w) (rs2Of w))
    else if f3 = 0b101#3 then .ok (.divu (rdOf w) (rs1Of w) (rs2Of w))
    else if f3 = 0b110#3 then .ok (.rem (rdOf w) (rs1Of w) (rs2Of w))
    else .ok (.remu (rdOf w) (rs1Of w) (rs2Of w)) -- 111, the last of the eight
  else .error (.reservedMinor w)

/-- The OP-IMM class: `funct3` selects, and `inst[31:25]` for the shifts (R73, R97). -/
def decodeOpImm (w : Word) : Except DecodeError Instr :=
  let f3 := funct3Of w
  if f3 = 0b000#3 then .ok (.addi (rdOf w) (rs1Of w) (immIOf w))
  else if f3 = 0b010#3 then .ok (.slti (rdOf w) (rs1Of w) (immIOf w))
  else if f3 = 0b011#3 then .ok (.sltiu (rdOf w) (rs1Of w) (immIOf w))
  else if f3 = 0b100#3 then .ok (.xori (rdOf w) (rs1Of w) (immIOf w))
  else if f3 = 0b110#3 then .ok (.ori (rdOf w) (rs1Of w) (immIOf w))
  else if f3 = 0b111#3 then .ok (.andi (rdOf w) (rs1Of w) (immIOf w))
  else if f3 = 0b001#3 then
    if funct7Of w = 0b0000000#7 then .ok (.slli (rdOf w) (rs1Of w) (shamtOf w))
    else .error (.reservedMinor w)
  else -- 101, the last of the eight
    if funct7Of w = 0b0000000#7 then .ok (.srli (rdOf w) (rs1Of w) (shamtOf w))
    else if funct7Of w = 0b0100000#7 then .ok (.srai (rdOf w) (rs1Of w) (shamtOf w))
    else .error (.reservedMinor w)

/-- The LOAD class (R73, R98). -/
def decodeLoad (w : Word) : Except DecodeError Instr :=
  let f3 := funct3Of w
  if f3 = 0b000#3 then .ok (.lb (rdOf w) (rs1Of w) (immIOf w))
  else if f3 = 0b001#3 then .ok (.lh (rdOf w) (rs1Of w) (immIOf w))
  else if f3 = 0b010#3 then .ok (.lw (rdOf w) (rs1Of w) (immIOf w))
  else if f3 = 0b100#3 then .ok (.lbu (rdOf w) (rs1Of w) (immIOf w))
  else if f3 = 0b101#3 then .ok (.lhu (rdOf w) (rs1Of w) (immIOf w))
  else .error (.reservedMinor w)

/-- The STORE class (R73, R98). -/
def decodeStore (w : Word) : Except DecodeError Instr :=
  let f3 := funct3Of w
  if f3 = 0b000#3 then .ok (.sb (rs2Of w) (rs1Of w) (immSOf w))
  else if f3 = 0b001#3 then .ok (.sh (rs2Of w) (rs1Of w) (immSOf w))
  else if f3 = 0b010#3 then .ok (.sw (rs2Of w) (rs1Of w) (immSOf w))
  else .error (.reservedMinor w)

/-- The BRANCH class (R73, R98). -/
def decodeBranch (w : Word) : Except DecodeError Instr :=
  let f3 := funct3Of w
  if f3 = 0b000#3 then .ok (.beq (rs1Of w) (rs2Of w) (immBOf w))
  else if f3 = 0b001#3 then .ok (.bne (rs1Of w) (rs2Of w) (immBOf w))
  else if f3 = 0b100#3 then .ok (.blt (rs1Of w) (rs2Of w) (immBOf w))
  else if f3 = 0b101#3 then .ok (.bge (rs1Of w) (rs2Of w) (immBOf w))
  else if f3 = 0b110#3 then .ok (.bltu (rs1Of w) (rs2Of w) (immBOf w))
  else if f3 = 0b111#3 then .ok (.bgeu (rs1Of w) (rs2Of w) (immBOf w))
  else .error (.reservedMinor w)

/-- The JALR class (R73). -/
def decodeJalr (w : Word) : Except DecodeError Instr :=
  if funct3Of w = 0b000#3 then .ok (.jalr (rdOf w) (rs1Of w) (immIOf w))
  else .error (.reservedMinor w)

/-- The instruction a word stands for (R72 to R74); every word of the SYSTEM opcode is ECALL (R78, log entry 8). -/
def decodeWord (w : Word) : Except DecodeError Instr :=
  let op := opcodeOf w
  if op = 0x03#7 then decodeLoad w
  else if op = 0x13#7 then decodeOpImm w
  else if op = 0x17#7 then .ok (.auipc (rdOf w) (immUOf w))
  else if op = 0x23#7 then decodeStore w
  else if op = 0x33#7 then decodeOp w
  else if op = 0x37#7 then .ok (.lui (rdOf w) (immUOf w))
  else if op = 0x63#7 then decodeBranch w
  else if op = 0x67#7 then decodeJalr w
  else if op = 0x6F#7 then .ok (.jal (rdOf w) (immJOf w))
  else if op = 0x73#7 then .ok .ecall
  else .error (.unrecognisedOpcode w)

/-- A word from its bytes, the byte at the lowest address first (R42, R60). -/
def wordOfBytes (b0 b1 b2 b3 : Byte) : Word := b3 ++ b2 ++ b1 ++ b0

/-- The bytes of a word in the order memory holds them (R42). -/
def bytesOfWord (w : Word) : List Byte :=
  [w.extractLsb' 0 8, w.extractLsb' 8 8, w.extractLsb' 16 8, w.extractLsb' 24 8]

/-- The decoder, total on any bytes: the first instruction and the bytes after it (R60: four bytes each). -/
def decode : List Byte → Except DecodeError (Instr × List Byte)
  | b0 :: b1 :: b2 :: b3 :: rest =>
    match decodeWord (wordOfBytes b0 b1 b2 b3) with
    | .ok i => .ok (i, rest)
    | .error e => .error e
  | _ => .error .truncated

/-- The instruction the decoder reads from a word numbered as spec/opcode_table.json numbers it. -/
def decodeTableWord (nbits w : Nat) : Option Instr :=
  match decode (bytesOfWord (BitVec.ofNat 32 (w % 2 ^ nbits))) with
  | .ok (i, _) => some i
  | .error _ => none

/-! ## Encoding -/

/-- R format (R62). -/
def encodeR (f7 : BitVec 7) (rs2 rs1 : Reg) (f3 : BitVec 3) (rd : Reg) (op : BitVec 7) : Word :=
  f7 ++ regBits rs2 ++ regBits rs1 ++ f3 ++ regBits rd ++ op
/-- I format (R62). -/
def encodeI (imm : BitVec 12) (rs1 : Reg) (f3 : BitVec 3) (rd : Reg) (op : BitVec 7) : Word :=
  imm ++ regBits rs1 ++ f3 ++ regBits rd ++ op
/-- I format of the immediate shifts (R62, R71). -/
def encodeShift (f7 : BitVec 7) (shamt : BitVec 5) (rs1 : Reg) (f3 : BitVec 3) (rd : Reg) (op : BitVec 7) : Word :=
  f7 ++ shamt ++ regBits rs1 ++ f3 ++ regBits rd ++ op
/-- S format (R62). -/
def encodeS (imm : BitVec 12) (rs2 rs1 : Reg) (f3 : BitVec 3) (op : BitVec 7) : Word :=
  imm.extractLsb' 5 7 ++ regBits rs2 ++ regBits rs1 ++ f3 ++ imm.extractLsb' 0 5 ++ op
/-- B format: `imm[12], imm[10:5]` and `imm[4:1], imm[11]`; bit 0 has no place (R62, R68). -/
def encodeB (imm : BitVec 13) (rs2 rs1 : Reg) (f3 : BitVec 3) (op : BitVec 7) : Word :=
  imm.extractLsb' 12 1 ++ imm.extractLsb' 5 6 ++ regBits rs2 ++ regBits rs1 ++ f3 ++
    imm.extractLsb' 1 4 ++ imm.extractLsb' 11 1 ++ op
/-- U format (R62). -/
def encodeU (imm20 : BitVec 20) (rd : Reg) (op : BitVec 7) : Word :=
  imm20 ++ regBits rd ++ op
/-- J format: `imm[20], imm[10:1], imm[11], imm[19:12]`; bit 0 has no place (R62, R70). -/
def encodeJ (imm : BitVec 21) (rd : Reg) (op : BitVec 7) : Word :=
  imm.extractLsb' 20 1 ++ imm.extractLsb' 1 10 ++ imm.extractLsb' 11 1 ++ imm.extractLsb' 12 8 ++ regBits rd ++ op

/-- The word of a well-formed instruction (R62, R72, R73); ECALL's is the canonical one (R78). -/
def encode : Instr → Word
  | .add rd rs1 rs2 => encodeR 0b0000000#7 rs2 rs1 0b000#3 rd 0x33#7
  | .sll rd rs1 rs2 => encodeR 0b0000000#7 rs2 rs1 0b001#3 rd 0x33#7
  | .slt rd rs1 rs2 => encodeR 0b0000000#7 rs2 rs1 0b010#3 rd 0x33#7
  | .sltu rd rs1 rs2 => encodeR 0b0000000#7 rs2 rs1 0b011#3 rd 0x33#7
  | .xor rd rs1 rs2 => encodeR 0b0000000#7 rs2 rs1 0b100#3 rd 0x33#7
  | .srl rd rs1 rs2 => encodeR 0b0000000#7 rs2 rs1 0b101#3 rd 0x33#7
  | .or rd rs1 rs2 => encodeR 0b0000000#7 rs2 rs1 0b110#3 rd 0x33#7
  | .and rd rs1 rs2 => encodeR 0b0000000#7 rs2 rs1 0b111#3 rd 0x33#7
  | .sub rd rs1 rs2 => encodeR 0b0100000#7 rs2 rs1 0b000#3 rd 0x33#7
  | .sra rd rs1 rs2 => encodeR 0b0100000#7 rs2 rs1 0b101#3 rd 0x33#7
  | .mul rd rs1 rs2 => encodeR 0b0000001#7 rs2 rs1 0b000#3 rd 0x33#7
  | .mulh rd rs1 rs2 => encodeR 0b0000001#7 rs2 rs1 0b001#3 rd 0x33#7
  | .mulhsu rd rs1 rs2 => encodeR 0b0000001#7 rs2 rs1 0b010#3 rd 0x33#7
  | .mulhu rd rs1 rs2 => encodeR 0b0000001#7 rs2 rs1 0b011#3 rd 0x33#7
  | .div rd rs1 rs2 => encodeR 0b0000001#7 rs2 rs1 0b100#3 rd 0x33#7
  | .divu rd rs1 rs2 => encodeR 0b0000001#7 rs2 rs1 0b101#3 rd 0x33#7
  | .rem rd rs1 rs2 => encodeR 0b0000001#7 rs2 rs1 0b110#3 rd 0x33#7
  | .remu rd rs1 rs2 => encodeR 0b0000001#7 rs2 rs1 0b111#3 rd 0x33#7
  | .addi rd rs1 imm => encodeI imm rs1 0b000#3 rd 0x13#7
  | .slti rd rs1 imm => encodeI imm rs1 0b010#3 rd 0x13#7
  | .sltiu rd rs1 imm => encodeI imm rs1 0b011#3 rd 0x13#7
  | .xori rd rs1 imm => encodeI imm rs1 0b100#3 rd 0x13#7
  | .ori rd rs1 imm => encodeI imm rs1 0b110#3 rd 0x13#7
  | .andi rd rs1 imm => encodeI imm rs1 0b111#3 rd 0x13#7
  | .slli rd rs1 shamt => encodeShift 0b0000000#7 shamt rs1 0b001#3 rd 0x13#7
  | .srli rd rs1 shamt => encodeShift 0b0000000#7 shamt rs1 0b101#3 rd 0x13#7
  | .srai rd rs1 shamt => encodeShift 0b0100000#7 shamt rs1 0b101#3 rd 0x13#7
  | .lb rd rs1 imm => encodeI imm rs1 0b000#3 rd 0x03#7
  | .lh rd rs1 imm => encodeI imm rs1 0b001#3 rd 0x03#7
  | .lw rd rs1 imm => encodeI imm rs1 0b010#3 rd 0x03#7
  | .lbu rd rs1 imm => encodeI imm rs1 0b100#3 rd 0x03#7
  | .lhu rd rs1 imm => encodeI imm rs1 0b101#3 rd 0x03#7
  | .sb rs2 rs1 imm => encodeS imm rs2 rs1 0b000#3 0x23#7
  | .sh rs2 rs1 imm => encodeS imm rs2 rs1 0b001#3 0x23#7
  | .sw rs2 rs1 imm => encodeS imm rs2 rs1 0b010#3 0x23#7
  | .beq rs1 rs2 offset => encodeB offset rs2 rs1 0b000#3 0x63#7
  | .bne rs1 rs2 offset => encodeB offset rs2 rs1 0b001#3 0x63#7
  | .blt rs1 rs2 offset => encodeB offset rs2 rs1 0b100#3 0x63#7
  | .bge rs1 rs2 offset => encodeB offset rs2 rs1 0b101#3 0x63#7
  | .bltu rs1 rs2 offset => encodeB offset rs2 rs1 0b110#3 0x63#7
  | .bgeu rs1 rs2 offset => encodeB offset rs2 rs1 0b111#3 0x63#7
  | .jal rd offset => encodeJ offset rd 0x6F#7
  | .jalr rd rs1 imm => encodeI imm rs1 0b000#3 rd 0x67#7
  | .lui rd imm20 => encodeU imm20 rd 0x37#7
  | .auipc rd imm20 => encodeU imm20 rd 0x17#7
  | .ecall => 0x00000073#32

/-! ## The opcode table as data -/

/-- One row of spec/opcode_table.json: a word `w` is the instruction iff `w & mask = match` (R74). -/
structure OpcodeRow where
  mnemonic : String
  pattern  : Word
  mask     : Word
  deriving DecidableEq, Repr

/-- The word is the row's instruction (R74). -/
def OpcodeRow.matchesWord (r : OpcodeRow) (w : Word) : Bool := w &&& r.mask == r.pattern

/-- Rows of the OP class (R75). -/
def opRows : List OpcodeRow :=
  [ ⟨"ADD", 0x00000033#32, 0xFE00707F#32⟩,
    ⟨"SUB", 0x40000033#32, 0xFE00707F#32⟩,
    ⟨"SLL", 0x00001033#32, 0xFE00707F#32⟩,
    ⟨"SLT", 0x00002033#32, 0xFE00707F#32⟩,
    ⟨"SLTU", 0x00003033#32, 0xFE00707F#32⟩,
    ⟨"XOR", 0x00004033#32, 0xFE00707F#32⟩,
    ⟨"SRL", 0x00005033#32, 0xFE00707F#32⟩,
    ⟨"SRA", 0x40005033#32, 0xFE00707F#32⟩,
    ⟨"OR", 0x00006033#32, 0xFE00707F#32⟩,
    ⟨"AND", 0x00007033#32, 0xFE00707F#32⟩ ]

/-- Rows of the OP, M extension class (R75). -/
def mulDivRows : List OpcodeRow :=
  [ ⟨"MUL", 0x02000033#32, 0xFE00707F#32⟩,
    ⟨"MULH", 0x02001033#32, 0xFE00707F#32⟩,
    ⟨"MULHSU", 0x02002033#32, 0xFE00707F#32⟩,
    ⟨"MULHU", 0x02003033#32, 0xFE00707F#32⟩,
    ⟨"DIV", 0x02004033#32, 0xFE00707F#32⟩,
    ⟨"DIVU", 0x02005033#32, 0xFE00707F#32⟩,
    ⟨"REM", 0x02006033#32, 0xFE00707F#32⟩,
    ⟨"REMU", 0x02007033#32, 0xFE00707F#32⟩ ]

/-- Rows of the OP-IMM class (R75). -/
def opImmRows : List OpcodeRow :=
  [ ⟨"ADDI", 0x00000013#32, 0x0000707F#32⟩,
    ⟨"SLTI", 0x00002013#32, 0x0000707F#32⟩,
    ⟨"SLTIU", 0x00003013#32, 0x0000707F#32⟩,
    ⟨"XORI", 0x00004013#32, 0x0000707F#32⟩,
    ⟨"ORI", 0x00006013#32, 0x0000707F#32⟩,
    ⟨"ANDI", 0x00007013#32, 0x0000707F#32⟩,
    ⟨"SLLI", 0x00001013#32, 0xFE00707F#32⟩,
    ⟨"SRLI", 0x00005013#32, 0xFE00707F#32⟩,
    ⟨"SRAI", 0x40005013#32, 0xFE00707F#32⟩ ]

/-- Rows of the LOAD and STORE classes (R75). -/
def memoryRows : List OpcodeRow :=
  [ ⟨"LB", 0x00000003#32, 0x0000707F#32⟩,
    ⟨"LH", 0x00001003#32, 0x0000707F#32⟩,
    ⟨"LW", 0x00002003#32, 0x0000707F#32⟩,
    ⟨"LBU", 0x00004003#32, 0x0000707F#32⟩,
    ⟨"LHU", 0x00005003#32, 0x0000707F#32⟩,
    ⟨"SB", 0x00000023#32, 0x0000707F#32⟩,
    ⟨"SH", 0x00001023#32, 0x0000707F#32⟩,
    ⟨"SW", 0x00002023#32, 0x0000707F#32⟩ ]

/-- Rows of the BRANCH, JAL, JALR, LUI, AUIPC and SYSTEM classes (R75). -/
def controlRows : List OpcodeRow :=
  [ ⟨"BEQ", 0x00000063#32, 0x0000707F#32⟩,
    ⟨"BNE", 0x00001063#32, 0x0000707F#32⟩,
    ⟨"BLT", 0x00004063#32, 0x0000707F#32⟩,
    ⟨"BGE", 0x00005063#32, 0x0000707F#32⟩,
    ⟨"BLTU", 0x00006063#32, 0x0000707F#32⟩,
    ⟨"BGEU", 0x00007063#32, 0x0000707F#32⟩,
    ⟨"JAL", 0x0000006F#32, 0x0000007F#32⟩,
    ⟨"JALR", 0x00000067#32, 0x0000707F#32⟩,
    ⟨"LUI", 0x00000037#32, 0x0000007F#32⟩,
    ⟨"AUIPC", 0x00000017#32, 0x0000007F#32⟩,
    ⟨"ECALL", 0x00000073#32, 0x0000007F#32⟩ ]

/-- The complete list of rule R75, 46 rows. -/
def opcodeTable : List OpcodeRow :=
  opRows ++ mulDivRows ++ opImmRows ++ memoryRows ++ controlRows

/-- The instruction's name in the opcode table (R75). -/
def Instr.mnemonic : Instr → String
  | .add _ _ _ => "ADD"
  | .sub _ _ _ => "SUB"
  | .sll _ _ _ => "SLL"
  | .slt _ _ _ => "SLT"
  | .sltu _ _ _ => "SLTU"
  | .xor _ _ _ => "XOR"
  | .srl _ _ _ => "SRL"
  | .sra _ _ _ => "SRA"
  | .or _ _ _ => "OR"
  | .and _ _ _ => "AND"
  | .mul _ _ _ => "MUL"
  | .mulh _ _ _ => "MULH"
  | .mulhsu _ _ _ => "MULHSU"
  | .mulhu _ _ _ => "MULHU"
  | .div _ _ _ => "DIV"
  | .divu _ _ _ => "DIVU"
  | .rem _ _ _ => "REM"
  | .remu _ _ _ => "REMU"
  | .addi _ _ _ => "ADDI"
  | .slti _ _ _ => "SLTI"
  | .sltiu _ _ _ => "SLTIU"
  | .xori _ _ _ => "XORI"
  | .ori _ _ _ => "ORI"
  | .andi _ _ _ => "ANDI"
  | .slli _ _ _ => "SLLI"
  | .srli _ _ _ => "SRLI"
  | .srai _ _ _ => "SRAI"
  | .lb _ _ _ => "LB"
  | .lh _ _ _ => "LH"
  | .lw _ _ _ => "LW"
  | .lbu _ _ _ => "LBU"
  | .lhu _ _ _ => "LHU"
  | .sb _ _ _ => "SB"
  | .sh _ _ _ => "SH"
  | .sw _ _ _ => "SW"
  | .beq _ _ _ => "BEQ"
  | .bne _ _ _ => "BNE"
  | .blt _ _ _ => "BLT"
  | .bge _ _ _ => "BGE"
  | .bltu _ _ _ => "BLTU"
  | .bgeu _ _ _ => "BGEU"
  | .jal _ _ => "JAL"
  | .jalr _ _ _ => "JALR"
  | .lui _ _ => "LUI"
  | .auipc _ _ => "AUIPC"
  | .ecall => "ECALL"

end Sys2Proof
end

