-- ==== Sys2Proof/Config.lean ====
section
/-!
DEFINITION. The configuration: the parameters spec/00_scope.md rule R7 names, as plain data.
The rule leaves MEM_VALID, MEM_INIT, PC_RESET and REG_INIT to whoever builds the machine, so claims quantify over them.
The fifth parameter, ECALL_HANDLER, is an observer: it is modelled as the trace of notifications in State (log entry 5).
The values the model starts from are Config.default in Machine/Defaults.lean (log entries 2, 3 and 4).
-/

namespace Sys2Proof

/-- The addresses `base .. base + size - 1`. -/
structure Region where
  base : Nat
  size : Nat
  deriving DecidableEq, Repr

/-- The parameters of rule R7. -/
structure Config where
  /-- MEM_VALID: the addresses that exist, as a union of regions. -/
  memValid : List Region
  /-- MEM_INIT: the contents of memory after reset, listed in the canonical form of Machine/Memory.lean. -/
  memInit  : List Host.Cell
  /-- PC_RESET: the program counter after reset, a multiple of 4. -/
  pcReset  : Word
  /-- REG_INIT: x1 .. x31 after reset; entry `i` is the register `x(i+1)`. -/
  regInit  : Vector Word 31
  deriving DecidableEq, Repr

end Sys2Proof
end

