-- ==== Sys2Proof/Machine/Defaults.lean ====
section
/-!
DEFINITION. The configuration State.reset uses. PC_RESET and REG_INIT are the defaults the spec chose (spec/00_scope.md rule R7,
spec/10_state.md rule R26); it gives none for MEM_VALID and MEM_INIT, and those here are the model's (log entries 2, 3, 4).
-/

namespace Sys2Proof

/-- MEM_VALID is 0x00000000 .. 0x0000FFFF, the set spec/95_test_vectors.md uses (DESIGN CHOICE, log entry 2), MEM_INIT is zero
everywhere (DESIGN CHOICE, log entry 3), PC_RESET and every REG_INIT are zero (the spec's defaults, log entry 4). -/
def Config.default : Config where
  memValid := [⟨0x00000000, 0x00010000⟩]
  memInit  := []
  pcReset  := 0x00000000#32
  regInit  := Vector.replicate 31 0x00000000#32

end Sys2Proof
end

