-- ==== Sys2Proof/Machine/Memory.lean ====
section
/-!
DEFINITION. Memory as plain data and the operations on it that no address map restricts (spec/20_memory.md).
Memory is a list of (address, byte) pairs, addresses strictly rising, no entry equal to what an unlisted address reads as.
Which addresses exist is the configuration's MEM_VALID (rule R40), which Ops.lean checks before an access reaches these operations.
-/

namespace Sys2Proof.Machine

/-- The bytes of memory. -/
abbrev Memory := List Host.Cell

/-- What an address that is not listed reads as (log entry 3). It is the background the list stands on, so that any MEM_INIT
is a finite list over it; it says nothing about addresses outside MEM_VALID, which no access reaches. -/
def Memory.background : Byte := 0x00#8

/-- One byte: the entry of the address, else the background. -/
def Memory.read : Memory → Nat → Byte
  | [], _ => Memory.background
  | (k, b) :: m, a => if a = k then b else Memory.read m a

/-- The list without the entries of an address. -/
def Memory.erase (m : Memory) (a : Nat) : Memory := m.filter fun c => !(c.1 == a)

/-- The list with the entry `(a, v)`, put where the rising order wants it. -/
def Memory.insert : Memory → Nat → Byte → Memory
  | [], a, v => [(a, v)]
  | (k, b) :: m, a, v =>
    if a < k then (a, v) :: (k, b) :: m
    else if a = k then (a, v) :: m
    else (k, b) :: Memory.insert m a v

/-- Write one byte; writing the background removes the entry, so that equal memories are equal lists. -/
def Memory.write (m : Memory) (a : Nat) (v : Byte) : Memory :=
  if v = Memory.background then m.erase a else m.insert a v

/-- The canonical form from an address on: addresses rising from `lo`, no entry holding the background. -/
def Memory.wfFrom : Nat → Memory → Bool
  | _, [] => true
  | lo, (k, b) :: m => decide (lo ≤ k) && !(b == Memory.background) && Memory.wfFrom (k + 1) m

/-- The canonical form. -/
def Memory.wf (m : Memory) : Bool := Memory.wfFrom 0 m

/-- Write bytes at consecutive addresses, the first at `a`. -/
def Memory.writeBytes : Memory → Nat → List Byte → Memory
  | m, _, [] => m
  | m, a, b :: bs => Memory.writeBytes (m.write a b) (a + 1) bs

/-! ## Which addresses exist -/

/-- The region holds the address. -/
def regionHolds (r : Region) (a : Nat) : Bool := decide (r.base ≤ a) && decide (a < r.base + r.size)

/-- The address is in MEM_VALID, a set of 32-bit addresses (R7, R40). -/
def addressExists (c : Config) (a : Nat) : Bool := decide (a < 2 ^ 32) && c.memValid.any fun r => regionHolds r a

/-- Every one of the `n` addresses from `a` on exists (R47). -/
def rangeExists (c : Config) : Nat → Nat → Bool
  | _, 0 => true
  | a, n + 1 => addressExists c a && rangeExists c (a + 1) n

/-- The configuration with `n` bytes from `a` on among the addresses that exist; unchanged where they already are. -/
def withRange (c : Config) (a n : Nat) : Config :=
  if rangeExists c a n then c else { c with memValid := ⟨a, n⟩ :: c.memValid }

/-- What rule R7 asks of the parameters: MEM_INIT gives bytes to existing addresses only (and is listed in canonical form), and
PC_RESET is a multiple of 4. -/
def configWf (c : Config) : Bool :=
  Memory.wf c.memInit && c.memInit.all (fun e => addressExists c e.1) && decide (c.pcReset.toNat % 4 = 0)

end Sys2Proof.Machine
end

