-- ==== Sys2Proof/Machine/State.lean ====
section
/-!
DEFINITION. What the machine holds (spec/10_state.md), the ways a step can stop (spec/60_exceptions.md), and the state after reset
(spec/70_reset_and_hazards.md rule R240).
-/

namespace Sys2Proof.Machine

/-- The run state (R19). -/
inductive RunState where
  | running
  | haltPending
  | halted
  deriving DecidableEq, Repr

/-- The registers that have storage, x1 .. x31: entry `i` is `x(i+1)`. x0 is hardwired and has none (R10). -/
abbrev RegFile := Vector Word 31

/-- What a step emits to the outside (R8, R227, R228). -/
inductive Notification where
  /-- To ECALL_HANDLER: the pre-edge program counter and registers, as the handler may read them (R227, log entry 6). -/
  | ecallNotify (pc : Word) (regs : RegFile)
  /-- The transition from HaltPending to Halted (R228). -/
  | finished
  deriving DecidableEq, Repr

/-- Access width: 1, 2 or 4 bytes (R41). -/
inductive Width where
  | byte
  | half
  | word
  deriving DecidableEq, Repr

/-- What an access is for (R210). -/
inductive AccessKind where
  | fetch
  | load
  | store
  deriving DecidableEq, Repr

/-- Why an access faults (R210). -/
inductive AccessReason where
  | misaligned
  | outOfRange
  deriving DecidableEq, Repr

/-- The faults (R210). A fault is the result of a step that commits nothing, so it carries no state (R214, log entry 17). -/
inductive Fault where
  /-- Raised by Step when the fetched word is no instruction (R211). Safe: the spec's own fault; for reserved minor encodings it
  stops where the original hardware may go on (log entry 9). -/
  | illegalInstruction (inst : Word) (pc : Word)
  /-- Raised by the fetch, by LH LHU LW LB LBU and by SH SW SB (R212). Safe: the spec's own fault. -/
  | memoryAccess (kind : AccessKind) (reason : AccessReason) (addr : Word) (width : Width) (pc : Word)
  deriving DecidableEq, Repr

/-- The refusals. -/
inductive Refusal where
  /-- For an arm of exec with no meaning yet; no arm answers it in this model. Safe: nothing can be proved of what follows. -/
  | notModelled (mnemonic : String)
  deriving DecidableEq, Repr

/-- The state of the core (R10, R15, R19, R25). -/
structure State where
  /-- The program counter (R15). -/
  pc    : Word
  /-- x1 .. x31 (R10). -/
  regs  : RegFile
  /-- The bytes of memory (R25). -/
  mem   : Memory
  /-- The run state (R19). -/
  run   : RunState
  /-- The model's own: the notifications emitted so far, oldest first. No step reads it (log entry 5). -/
  trace : List Notification
  /-- The model's own: the parameters of rule R7. No step changes it (log entry 1). -/
  cfg   : Config
  deriving DecidableEq, Repr

/-- The state after reset under a configuration (R26, R240), nothing emitted yet. -/
def State.ofConfig (c : Config) : State where
  pc    := c.pcReset
  regs  := c.regInit
  mem   := c.memInit
  run   := .running
  trace := []
  cfg   := c

/-- The machine right after reset, under the default configuration. -/
def State.reset : State := State.ofConfig Config.default

end Sys2Proof.Machine
end

