-- ==== Sys2Proof/Machine/Flags.lean ====
section
/-!
DEFINITION. The machine has no flags and no condition codes (spec/10_state.md rule R20): no instruction writes one. What another
machine would compute into flags is here the branch comparator's Boolean (spec/40_datapath.md rule R120) and the 0 or 1 of the
set-less-than operations (rules R109, R110), both functions of two register-width values in the same cycle.
-/

namespace Sys2Proof.Machine

/-- The branch comparison operators (R94, R120). -/
inductive Comparison where
  | eq
  | ne
  | lt
  | ge
  | ltu
  | geu
  deriving DecidableEq, Repr

/-- The comparator `Cmp(c, a, b)` (R120). -/
def cmpWords : Comparison → Word → Word → Bool
  | .eq,  a, b => a == b
  | .ne,  a, b => !(a == b)
  | .lt,  a, b => a.slt b
  | .ge,  a, b => !(a.slt b)
  | .ltu, a, b => a.ult b
  | .geu, a, b => !(a.ult b)

/-- A truth value as the 32-bit 1 or 0 of SLT and SLTU (R109, R110). -/
def boolWord (c : Bool) : Word := if c then 0x00000001#32 else 0x00000000#32

end Sys2Proof.Machine
end

