-- ==== Sys2Proof/Machine/Operands.lean ====
section
/-!
DEFINITION. The operand forms: the five immediates as 32-bit values (spec/30_encoding.md rules R65 to R70), the shift amount
(rule R71), and the widths of memory accesses with their byte order (spec/20_memory.md rules R41, R42).
-/

namespace Sys2Proof.Machine

/-- `imm_I` and `imm_S`: sign-extended from bit 11, the word's bit 31 (R66, R67). -/
def immI (imm : BitVec 12) : Word := imm.signExtend 32
/-- `imm_S` (R67). -/
def immS (imm : BitVec 12) : Word := imm.signExtend 32
/-- `imm_B`, the byte offset of a branch (R68). -/
def immB (offset : BitVec 13) : Word := offset.signExtend 32
/-- `imm_U`: the 20 bits above twelve zeros (R69). -/
def immU (imm20 : BitVec 20) : Word := imm20 ++ 0#12
/-- `imm_J`, the byte offset of JAL (R70). -/
def immJ (offset : BitVec 21) : Word := offset.signExtend 32
/-- The I immediate of an immediate shift: `inst[31:25]` above `shamt`, sign-extended; the ALU uses bits 4..0 (R71). -/
def immShift (f7 : BitVec 7) (shamt : BitVec 5) : Word := immI (f7 ++ shamt)

/-- The shift amount: operand 2's bits 4..0 as a number (R106). -/
def shiftAmount (b : Word) : Nat := (b.extractLsb' 0 5).toNat

/-- Bytes of a width (R41). -/
def Width.bytes : Width → Nat
  | .byte => 1
  | .half => 2
  | .word => 4

/-- Bits of a width, `8n` (R44). -/
abbrev Width.bits : Width → Nat
  | .byte => 8
  | .half => 16
  | .word => 32

/-- The value of the bytes from `a` on, the lowest address in bits 7..0 (R42, R44; log entry 11). -/
def Memory.load (m : Memory) (a : Nat) : (w : Width) → BitVec w.bits
  | .byte => m.read a
  | .half => m.read (a + 1) ++ m.read a
  | .word => m.read (a + 3) ++ m.read (a + 2) ++ m.read (a + 1) ++ m.read a

/-- A value's bytes, bits 7..0 first (R42, R45; log entry 11). -/
def bytesOf : (w : Width) → BitVec w.bits → List Byte
  | .byte, v => [v]
  | .half, v => [v.extractLsb' 0 8, v.extractLsb' 8 8]
  | .word, v => [v.extractLsb' 0 8, v.extractLsb' 8 8, v.extractLsb' 16 8, v.extractLsb' 24 8]

/-- Write a value's bytes from `a` on (R45). -/
def Memory.store (m : Memory) (a : Nat) (w : Width) (v : BitVec w.bits) : Memory :=
  m.writeBytes a (bytesOf w v)

/-- Sign-extend a loaded value to the register width: LB, LH, LW (R124). -/
def signExtended (w : Width) (v : BitVec w.bits) : Word := v.signExtend 32
/-- Zero-extend a loaded value to the register width: LBU, LHU (R124). -/
def zeroExtended (w : Width) (v : BitVec w.bits) : Word := v.setWidth 32
/-- A register's value truncated to the access width: the store data (R124). -/
def truncated (w : Width) (v : Word) : BitVec w.bits := v.setWidth w.bits

end Sys2Proof.Machine
end

