-- ==== Sys2Proof/Machine/Alu.lean ====
section
/-!
DEFINITION. The ALU: a pure function of an operation code and two operands (spec/40_datapath.md rules R100 to R119). It sets no
flag and raises no exception; division by zero and signed overflow are defined results (log entry 19).
-/

namespace Sys2Proof.Machine

/-- The eighteen operations of the source and PASS2 (R94, R100, R119). -/
inductive AluOp where
  | add | sub | and | or | xor
  | sll | srl | sra
  | slt | sltu
  | mul | mulh | mulhu | mulhsu
  | div | divu | rem | remu
  | pass2
  deriving DecidableEq, Repr

/-- Bits 31..0 of the product (R111). -/
def mulLow (a b : Word) : Word := a * b
/-- Bits 63..32 of the signed product (R112). -/
def mulHighSigned (a b : Word) : Word := (a.signExtend 64 * b.signExtend 64).extractLsb' 32 32
/-- Bits 63..32 of the unsigned product (R113). -/
def mulHighUnsigned (a b : Word) : Word := (a.setWidth 64 * b.setWidth 64).extractLsb' 32 32
/-- Bits 63..32 of the product of signed operand 1 and unsigned operand 2 (R114). -/
def mulHighSignedUnsigned (a b : Word) : Word := (a.signExtend 64 * b.setWidth 64).extractLsb' 32 32

/-- The most negative value. -/
def intMin : Word := 0x80000000#32
/-- All ones: -1, or the largest unsigned value. -/
def allOnes : Word := 0xFFFFFFFF#32

/-- Signed division, rounding toward zero, with its two special cases (R115). -/
def divSigned (a b : Word) : Word :=
  if b = 0#32 then allOnes
  else if a = intMin ∧ b = allOnes then intMin
  else a.sdiv b
/-- Unsigned division (R116). -/
def divUnsigned (a b : Word) : Word := if b = 0#32 then allOnes else a / b
/-- Signed remainder, of the dividend's sign, with its two special cases (R117). -/
def remSigned (a b : Word) : Word :=
  if b = 0#32 then a
  else if a = intMin ∧ b = allOnes then 0x00000000#32
  else a.srem b
/-- Unsigned remainder (R118). -/
def remUnsigned (a b : Word) : Word := if b = 0#32 then a else a % b

/-- `ALU(op, a, b)` (R100). -/
def alu : AluOp → Word → Word → Word
  | .add,    a, b => a + b
  | .sub,    a, b => a - b
  | .and,    a, b => a &&& b
  | .or,     a, b => a ||| b
  | .xor,    a, b => a ^^^ b
  | .sll,    a, b => a <<< shiftAmount b
  | .srl,    a, b => a >>> shiftAmount b
  | .sra,    a, b => a.sshiftRight (shiftAmount b)
  | .slt,    a, b => boolWord (a.slt b)
  | .sltu,   a, b => boolWord (a.ult b)
  | .mul,    a, b => mulLow a b
  | .mulh,   a, b => mulHighSigned a b
  | .mulhu,  a, b => mulHighUnsigned a b
  | .mulhsu, a, b => mulHighSignedUnsigned a b
  | .div,    a, b => divSigned a b
  | .divu,   a, b => divUnsigned a b
  | .rem,    a, b => remSigned a b
  | .remu,   a, b => remUnsigned a b
  | .pass2,  _, b => b

end Sys2Proof.Machine
end

