-- ==== Sys2Proof/Machine/Ops.lean ====
section
/-!
DEFINITION. The named operations every meaning is written with: the register ports (spec/10_state.md rules R11, R12), the access
primitives Fetch, MemRead and MemWrite (spec/20_memory.md rules R43 to R45), raising a fault (spec/60_exceptions.md rules R214,
R215), the commit forms of spec/40_datapath.md rules R122, R123, R126, and the datapath each class of instruction shares (R95).
Every operation reads only the state it is given, the pre-edge state (R91).
-/

namespace Sys2Proof.Machine

/-! ## Registers -/

/-- Register read: index 0 reads 0 (R11). -/
def RegFile.read (f : RegFile) : Reg → Word
  | ⟨0, _⟩ => 0x00000000#32
  | ⟨n + 1, h⟩ => f[n]'(by omega)

/-- Register write: index 0 discards (R12). -/
def RegFile.write (f : RegFile) : Reg → Word → RegFile
  | ⟨0, _⟩, _ => f
  | ⟨n + 1, h⟩, v => f.set n v (by omega)

/-- `x[r]` (R11). -/
def State.readReg (s : State) (r : Reg) : Word := s.regs.read r

/-- `x[r] <- v` (R12). -/
def State.writeReg (s : State) (r : Reg) (v : Word) : State := { s with regs := s.regs.write r v }

/-! ## Faults: the whole of taking an exception on this hardware -/

/-- A fault: it is returned to the caller of the step, nothing is saved, written or jumped to, and nothing of the cycle is committed
(R214, R215). There is no return from it: nothing was entered (R221). -/
def raise (f : Fault) : Host.Outcome State Fault Refusal := .fault f

/-! ## Memory -/

/-- The check of an access: misaligned first, then out of range (R44 to R47, R218; log entry 12). -/
def accessFault (s : State) (kind : AccessKind) (a : Word) (w : Width) : Option Fault :=
  if ¬ a.toNat % w.bytes = 0 then some (.memoryAccess kind .misaligned a w s.pc)
  else if rangeExists s.cfg a.toNat w.bytes = false then some (.memoryAccess kind .outOfRange a w s.pc)
  else none

/-- `MemRead(a, n)` (R44), and with kind Fetch the read of `Fetch(a)` (R43). -/
def memRead (s : State) (kind : AccessKind) (a : Word) (w : Width) : Except Fault (BitVec w.bits) :=
  match accessFault s kind a w with
  | some f => .error f
  | none => .ok (s.mem.load a.toNat w)

/-- `MemWrite(a, n, v)` (R45): the memory after the clock edge. -/
def memWrite (s : State) (a : Word) (w : Width) (v : BitVec w.bits) : Except Fault Memory :=
  match accessFault s .store a w with
  | some f => .error f
  | none => .ok (s.mem.store a.toNat w v)

/-- The fetch of a cycle in run state Running: the word at `pc` (R43). -/
def fetchWord (s : State) : Except Fault Word := memRead s .fetch s.pc .word

/-- Fetch and decode: a word that is no instruction raises IllegalInstruction (R76, R77, R211). -/
def fetchInstr (s : State) : Except Fault Instr :=
  match fetchWord s with
  | .error f => .error f
  | .ok w =>
    match decodeWord w with
    | .error _ => .error (.illegalInstruction w s.pc)
    | .ok i => .ok i

/-! ## Committing a cycle -/

/-- `pc + 4`, modulo 2^32 (R18, R122; log entry 20). -/
def State.pcPlus4 (s : State) : Word := s.pc + 4#32

/-- A cycle that writes `x[rd]` and goes on to `target` (R122, R123, R126). -/
def commitReg (rd : Reg) (v target : Word) (s : State) : Host.Outcome State Fault Refusal :=
  .next { s.writeReg rd v with pc := target }

/-- A cycle that changes only the program counter (R122, R126). -/
def commitPc (target : Word) (s : State) : Host.Outcome State Fault Refusal :=
  .next { s with pc := target }

/-- A cycle that commits a store (R45, R122, R126). -/
def commitStore (m : Memory) (s : State) : Host.Outcome State Fault Refusal :=
  .next { s with mem := m, pc := s.pcPlus4 }

/-- A cycle that emits a notification (R8). -/
def State.emit (s : State) (n : Notification) : State := { s with trace := s.trace ++ [n] }

/-! ## The datapath of each class (R95) -/

/-- Class OP: `x[rd] <- ALU(op, x[rs1], x[rs2])`. -/
def registerOp (op : AluOp) (rd rs1 rs2 : Reg) (s : State) : Host.Outcome State Fault Refusal :=
  commitReg rd (alu op (s.readReg rs1) (s.readReg rs2)) s.pcPlus4 s

/-- Class OP-IMM: `x[rd] <- ALU(op, x[rs1], imm)`. -/
def immediateOp (op : AluOp) (rd rs1 : Reg) (imm : Word) (s : State) : Host.Outcome State Fault Refusal :=
  commitReg rd (alu op (s.readReg rs1) imm) s.pcPlus4 s

/-- The effective address of a load or store: base register plus displacement, modulo 2^32 (spec/44_load_store.md, R18). -/
def State.effectiveAddress (s : State) (rs1 : Reg) (imm : Word) : Word := alu .add (s.readReg rs1) imm

/-- Class LOAD: read, extend, write `x[rd]`; a fault commits nothing, also with `rd = x0` (R124, R214). -/
def loadOp (w : Width) (extend : BitVec w.bits → Word) (rd rs1 : Reg) (imm : Word) (s : State) :
    Host.Outcome State Fault Refusal :=
  match memRead s .load (s.effectiveAddress rs1 imm) w with
  | .error f => raise f
  | .ok v => commitReg rd (extend v) s.pcPlus4 s

/-- Class STORE: write the low bytes of `x[rs2]` (R124). -/
def storeOp (w : Width) (rs2 rs1 : Reg) (imm : Word) (s : State) : Host.Outcome State Fault Refusal :=
  match memWrite s (s.effectiveAddress rs1 imm) w (truncated w (s.readReg rs2)) with
  | .error f => raise f
  | .ok m => commitStore m s

/-- Class BRANCH: the ALU's `pc + imm_B` if the comparison holds, else `pc + 4` (R99, R121, R122). -/
def branchOp (c : Comparison) (rs1 rs2 : Reg) (offset : BitVec 13) (s : State) : Host.Outcome State Fault Refusal :=
  commitPc (if cmpWords c (s.readReg rs1) (s.readReg rs2) then alu .add s.pc (immB offset) else s.pcPlus4) s

/-- The jumps: link `pc + 4` in `x[rd]`, all 32 bits of the target into `pc`, no bit cleared (R122, R123; log entry 13). -/
def jumpOp (rd : Reg) (target : Word) (s : State) : Host.Outcome State Fault Refusal :=
  commitReg rd s.pcPlus4 target s

/-! ## Cycles that run no instruction -/

/-- A step in HaltPending: executes nothing, sets Halted, emits Finished (R225; log entry 14). -/
def haltPendingStep (s : State) : Host.Outcome State Fault Refusal :=
  .next { s.emit .finished with run := .halted }

/-- A step in Halted: changes nothing, emits nothing (R226; log entry 7). -/
def haltedStep (s : State) : Host.Outcome State Fault Refusal := .next s

/-! ## Placing an instruction where the next step fetches it -/

/-- Run state Running, `pc` a multiple of 4 (its low two bits cleared), its four bytes existing and holding the word: all a fetch
needs, and nothing else changed (log entry 15). -/
def State.placeInstruction (s : State) (w : Word) : State :=
  let pc : Word := s.pc &&& 0xFFFFFFFC#32
  { s with
    run := .running
    pc  := pc
    mem := s.mem.store pc.toNat .word w
    cfg := withRange s.cfg pc.toNat 4 }

end Sys2Proof.Machine
end

