-- ==== Sys2Proof/Machine/Branch.lean ====
section
/-!
DEFINITION. Conditional branches (spec/45_branch.md): taken to `pc + imm_B`; a misaligned target is reported by the next fetch.
-/

namespace Sys2Proof.Machine

/-- BEQ (R180): taken iff `x[rs1] = x[rs2]`. -/
def execBeq (rs1 rs2 : Reg) (offset : BitVec 13) (s : State) : Host.Outcome State Fault Refusal :=
  branchOp .eq rs1 rs2 offset s

/-- BNE (R181): taken iff `x[rs1] != x[rs2]`. -/
def execBne (rs1 rs2 : Reg) (offset : BitVec 13) (s : State) : Host.Outcome State Fault Refusal :=
  branchOp .ne rs1 rs2 offset s

/-- BLT (R182): taken iff `x[rs1]` is below `x[rs2]` as signed values. -/
def execBlt (rs1 rs2 : Reg) (offset : BitVec 13) (s : State) : Host.Outcome State Fault Refusal :=
  branchOp .lt rs1 rs2 offset s

/-- BGE (R183): taken iff `x[rs1]` is not below `x[rs2]` as signed values. -/
def execBge (rs1 rs2 : Reg) (offset : BitVec 13) (s : State) : Host.Outcome State Fault Refusal :=
  branchOp .ge rs1 rs2 offset s

/-- BLTU (R184): taken iff `x[rs1]` is below `x[rs2]` as unsigned values. -/
def execBltu (rs1 rs2 : Reg) (offset : BitVec 13) (s : State) : Host.Outcome State Fault Refusal :=
  branchOp .ltu rs1 rs2 offset s

/-- BGEU (R185): taken iff `x[rs1]` is not below `x[rs2]` as unsigned values. -/
def execBgeu (rs1 rs2 : Reg) (offset : BitVec 13) (s : State) : Host.Outcome State Fault Refusal :=
  branchOp .geu rs1 rs2 offset s

end Sys2Proof.Machine
end

