-- ==== Sys2Proof/Machine/Jump.lean ====
section
/-!
DEFINITION. Unconditional jumps (spec/46_jump.md): both link `pc + 4`; a misaligned target is reported by the next fetch.
-/

namespace Sys2Proof.Machine

/-- JAL (R190): link, and go to `pc + imm_J`. -/
def execJal (rd : Reg) (offset : BitVec 21) (s : State) : Host.Outcome State Fault Refusal :=
  jumpOp rd (alu .add s.pc (immJ offset)) s

/-- JALR (R191): link, and go to the old `x[rs1]` plus `imm_I`, bit 0 not cleared (log entry 13). -/
def execJalr (rd rs1 : Reg) (imm : BitVec 12) (s : State) : Host.Outcome State Fault Refusal :=
  jumpOp rd (alu .add (s.readReg rs1) (immI imm)) s

end Sys2Proof.Machine
end

