-- ==== Sys2Proof/Machine/LoadStore.lean ====
section
/-!
DEFINITION. Loads and stores (spec/44_load_store.md): address `x[rs1]` plus the sign-extended displacement.
-/

namespace Sys2Proof.Machine

/-- LB (R170): a byte, sign-extended from `x[rs1] + imm_I`. -/
def execLb (rd rs1 : Reg) (imm : BitVec 12) (s : State) : Host.Outcome State Fault Refusal :=
  loadOp .byte (signExtended .byte) rd rs1 (immI imm) s

/-- LH (R171): a halfword, sign-extended from `x[rs1] + imm_I`. -/
def execLh (rd rs1 : Reg) (imm : BitVec 12) (s : State) : Host.Outcome State Fault Refusal :=
  loadOp .half (signExtended .half) rd rs1 (immI imm) s

/-- LW (R172): a word from `x[rs1] + imm_I`. -/
def execLw (rd rs1 : Reg) (imm : BitVec 12) (s : State) : Host.Outcome State Fault Refusal :=
  loadOp .word (signExtended .word) rd rs1 (immI imm) s

/-- LBU (R173): a byte, zero-extended from `x[rs1] + imm_I`. -/
def execLbu (rd rs1 : Reg) (imm : BitVec 12) (s : State) : Host.Outcome State Fault Refusal :=
  loadOp .byte (zeroExtended .byte) rd rs1 (immI imm) s

/-- LHU (R174): a halfword, zero-extended from `x[rs1] + imm_I`. -/
def execLhu (rd rs1 : Reg) (imm : BitVec 12) (s : State) : Host.Outcome State Fault Refusal :=
  loadOp .half (zeroExtended .half) rd rs1 (immI imm) s

/-- SB (R175): store the low byte of `x[rs2]`. -/
def execSb (rs2 rs1 : Reg) (imm : BitVec 12) (s : State) : Host.Outcome State Fault Refusal :=
  storeOp .byte rs2 rs1 (immS imm) s

/-- SH (R176): store the low halfword of `x[rs2]`. -/
def execSh (rs2 rs1 : Reg) (imm : BitVec 12) (s : State) : Host.Outcome State Fault Refusal :=
  storeOp .half rs2 rs1 (immS imm) s

/-- SW (R177): store `x[rs2]`. -/
def execSw (rs2 rs1 : Reg) (imm : BitVec 12) (s : State) : Host.Outcome State Fault Refusal :=
  storeOp .word rs2 rs1 (immS imm) s

end Sys2Proof.Machine
end

