-- ==== Sys2Proof/Machine/MulDiv.lean ====
section
/-!
DEFINITION. Multiply and divide instructions (spec/42_muldiv.md). No pair of them shares anything; none raises a fault.
-/

namespace Sys2Proof.Machine

/-- MUL (R150): low word of the product. -/
def execMul (rd rs1 rs2 : Reg) (s : State) : Host.Outcome State Fault Refusal :=
  registerOp .mul rd rs1 rs2 s

/-- MULH (R151): high word of signed times signed. -/
def execMulh (rd rs1 rs2 : Reg) (s : State) : Host.Outcome State Fault Refusal :=
  registerOp .mulh rd rs1 rs2 s

/-- MULHSU (R152): high word of signed `x[rs1]` times unsigned `x[rs2]`. -/
def execMulhsu (rd rs1 rs2 : Reg) (s : State) : Host.Outcome State Fault Refusal :=
  registerOp .mulhsu rd rs1 rs2 s

/-- MULHU (R153): high word of unsigned times unsigned. -/
def execMulhu (rd rs1 rs2 : Reg) (s : State) : Host.Outcome State Fault Refusal :=
  registerOp .mulhu rd rs1 rs2 s

/-- DIV (R154): signed quotient toward zero; by zero all ones; overflow gives the dividend. -/
def execDiv (rd rs1 rs2 : Reg) (s : State) : Host.Outcome State Fault Refusal :=
  registerOp .div rd rs1 rs2 s

/-- DIVU (R155): unsigned quotient; by zero all ones. -/
def execDivu (rd rs1 rs2 : Reg) (s : State) : Host.Outcome State Fault Refusal :=
  registerOp .divu rd rs1 rs2 s

/-- REM (R156): signed remainder; by zero the dividend; overflow gives 0. -/
def execRem (rd rs1 rs2 : Reg) (s : State) : Host.Outcome State Fault Refusal :=
  registerOp .rem rd rs1 rs2 s

/-- REMU (R157): unsigned remainder; by zero the dividend. -/
def execRemu (rd rs1 rs2 : Reg) (s : State) : Host.Outcome State Fault Refusal :=
  registerOp .remu rd rs1 rs2 s

end Sys2Proof.Machine
end

