-- ==== Sys2Proof/Machine/OpImmediate.lean ====
section
/-!
DEFINITION. Register-immediate integer instructions (spec/43_op_immediate.md). The immediate is sign-extended for every one.
-/

namespace Sys2Proof.Machine

/-- ADDI (R160): `x[rd] <- (x[rs1] + imm_I) mod 2^32`. -/
def execAddi (rd rs1 : Reg) (imm : BitVec 12) (s : State) : Host.Outcome State Fault Refusal :=
  immediateOp .add rd rs1 (immI imm) s

/-- SLTI (R161): 1 if `x[rs1]` is below `imm_I` as signed values, else 0. -/
def execSlti (rd rs1 : Reg) (imm : BitVec 12) (s : State) : Host.Outcome State Fault Refusal :=
  immediateOp .slt rd rs1 (immI imm) s

/-- SLTIU (R162): 1 if `x[rs1]` is below the sign-extended `imm_I`, both read as unsigned, else 0. -/
def execSltiu (rd rs1 : Reg) (imm : BitVec 12) (s : State) : Host.Outcome State Fault Refusal :=
  immediateOp .sltu rd rs1 (immI imm) s

/-- XORI (R163): exclusive or with `imm_I`. -/
def execXori (rd rs1 : Reg) (imm : BitVec 12) (s : State) : Host.Outcome State Fault Refusal :=
  immediateOp .xor rd rs1 (immI imm) s

/-- ORI (R164): or with `imm_I`. -/
def execOri (rd rs1 : Reg) (imm : BitVec 12) (s : State) : Host.Outcome State Fault Refusal :=
  immediateOp .or rd rs1 (immI imm) s

/-- ANDI (R165): and with `imm_I`. -/
def execAndi (rd rs1 : Reg) (imm : BitVec 12) (s : State) : Host.Outcome State Fault Refusal :=
  immediateOp .and rd rs1 (immI imm) s

/-- SLLI (R166): shift left by `shamt`. -/
def execSlli (rd rs1 : Reg) (shamt : BitVec 5) (s : State) : Host.Outcome State Fault Refusal :=
  immediateOp .sll rd rs1 (immShift 0b0000000#7 shamt) s

/-- SRLI (R167): shift right by `shamt`, zero fill. -/
def execSrli (rd rs1 : Reg) (shamt : BitVec 5) (s : State) : Host.Outcome State Fault Refusal :=
  immediateOp .srl rd rs1 (immShift 0b0000000#7 shamt) s

/-- SRAI (R168): shift right by `shamt`, sign fill; the ALU receives `imm_I = 0x400 + shamt` and uses its bits 4..0. -/
def execSrai (rd rs1 : Reg) (shamt : BitVec 5) (s : State) : Host.Outcome State Fault Refusal :=
  immediateOp .sra rd rs1 (immShift 0b0100000#7 shamt) s

end Sys2Proof.Machine
end

