-- ==== Sys2Proof/Machine/OpRegister.lean ====
section
/-!
DEFINITION. Register-register integer instructions (spec/41_op_register.md).
-/

namespace Sys2Proof.Machine

/-- ADD (R140): `x[rd] <- (x[rs1] + x[rs2]) mod 2^32`. -/
def execAdd (rd rs1 rs2 : Reg) (s : State) : Host.Outcome State Fault Refusal :=
  registerOp .add rd rs1 rs2 s

/-- SUB (R141): `x[rd] <- (x[rs1] - x[rs2]) mod 2^32`. -/
def execSub (rd rs1 rs2 : Reg) (s : State) : Host.Outcome State Fault Refusal :=
  registerOp .sub rd rs1 rs2 s

/-- SLL (R142): shift left by the low five bits of `x[rs2]`. -/
def execSll (rd rs1 rs2 : Reg) (s : State) : Host.Outcome State Fault Refusal :=
  registerOp .sll rd rs1 rs2 s

/-- SLT (R143): 1 if `x[rs1]` is below `x[rs2]` as signed values, else 0. -/
def execSlt (rd rs1 rs2 : Reg) (s : State) : Host.Outcome State Fault Refusal :=
  registerOp .slt rd rs1 rs2 s

/-- SLTU (R144): 1 if `x[rs1]` is below `x[rs2]` as unsigned values, else 0. -/
def execSltu (rd rs1 rs2 : Reg) (s : State) : Host.Outcome State Fault Refusal :=
  registerOp .sltu rd rs1 rs2 s

/-- XOR (R145): bitwise exclusive or. -/
def execXor (rd rs1 rs2 : Reg) (s : State) : Host.Outcome State Fault Refusal :=
  registerOp .xor rd rs1 rs2 s

/-- SRL (R146): shift right, zero fill. -/
def execSrl (rd rs1 rs2 : Reg) (s : State) : Host.Outcome State Fault Refusal :=
  registerOp .srl rd rs1 rs2 s

/-- SRA (R147): shift right, sign fill. -/
def execSra (rd rs1 rs2 : Reg) (s : State) : Host.Outcome State Fault Refusal :=
  registerOp .sra rd rs1 rs2 s

/-- OR (R148): bitwise or. -/
def execOr (rd rs1 rs2 : Reg) (s : State) : Host.Outcome State Fault Refusal :=
  registerOp .or rd rs1 rs2 s

/-- AND (R149): bitwise and. -/
def execAnd (rd rs1 rs2 : Reg) (s : State) : Host.Outcome State Fault Refusal :=
  registerOp .and rd rs1 rs2 s

end Sys2Proof.Machine
end

