-- ==== Sys2Proof/Machine/System.lean ====
section
/-!
DEFINITION. The system instruction (spec/48_system.md): every word of the SYSTEM opcode (rules R200, R201).
-/

namespace Sys2Proof.Machine

/-- ECALL (R200): emit EcallNotify with the pre-edge pc and registers (R227), run state to HaltPending (R224), `pc + 4`; no register or
memory byte is written and the handler cannot change the state (R229). -/
def execEcall (s : State) : Host.Outcome State Fault Refusal :=
  .next { s.emit (.ecallNotify s.pc s.regs) with run := .haltPending, pc := s.pcPlus4 }

end Sys2Proof.Machine
end

