-- ==== Sys2Proof/Machine/UpperImmediate.lean ====
section
/-!
DEFINITION. Upper-immediate instructions (spec/47_upper_immediate.md).
-/

namespace Sys2Proof.Machine

/-- LUI (R195): `x[rd] <- imm_U`; operand 1 does not matter, the ALU passes operand 2 through (R119). -/
def execLui (rd : Reg) (imm20 : BitVec 20) (s : State) : Host.Outcome State Fault Refusal :=
  commitReg rd (alu .pass2 0#32 (immU imm20)) s.pcPlus4 s

/-- AUIPC (R196): `x[rd] <- pc + imm_U`. -/
def execAuipc (rd : Reg) (imm20 : BitVec 20) (s : State) : Host.Outcome State Fault Refusal :=
  commitReg rd (alu .add s.pc (immU imm20)) s.pcPlus4 s

end Sys2Proof.Machine
end

