-- ==== Sys2Proof/Machine/Step.lean ====
section
/-!
DEFINITION. The clock step (spec/40_datapath.md rule R90) as the host's interface has it: the state after a step that commits, or
the fault of a step that commits nothing. The step's result Ok, Fault or Halted with the state kept on a fault is `clock` of
Machine/HostOps.lean; the same step written out signal by signal is `datapathStep` of Machine/Datapath.lean.
-/

namespace Sys2Proof.Machine

/-- `Step()` (R90): by run state; in Running, fetch, decode and execute the instruction at `pc`. -/
def step (s : State) : Host.Outcome State Fault Refusal :=
  match s.run with
  | .halted => haltedStep s
  | .haltPending => haltPendingStep s
  | .running =>
    match fetchInstr s with
    | .error f => raise f
    | .ok i => exec i s

/-- The state with an instruction word where the next step fetches it; the word's bits above `nbits` are zero (log entry 15). -/
def State.withFetchWord (s : State) (nbits w : Nat) : State :=
  s.placeInstruction (BitVec.ofNat 32 (w % 2 ^ nbits))

end Sys2Proof.Machine
end

