-- ==== Sys2Proof/Machine/Datapath.lean ====
section
/-!
DEFINITION. The datapath of spec/40_datapath.md component by component: the control bundle (rules R94 to R98), the immediate (R93),
operand selection (R99), the take-alternate decision (R121), the memory stage (R124), write-back selection (R123) and the commit
(R126), wired as rule R90 wires them. It shares no decoder with the instruction meanings; that both give the same step is one of
the model's claims. A selector that does not matter for a class has a value all the same (log entry 16).
-/

namespace Sys2Proof.Machine

/-- The ten opcode classes (R72). -/
inductive OpClass where
  | load | opImm | auipc | store | op | lui | branch | jalr | jal | system
  deriving DecidableEq, Repr

/-- The class of an opcode; none for an unrecognised one (R72, R76). -/
def classOf (op : BitVec 7) : Option OpClass :=
  if op = 0b0000011#7 then some .load
  else if op = 0b0010011#7 then some .opImm
  else if op = 0b0010111#7 then some .auipc
  else if op = 0b0100011#7 then some .store
  else if op = 0b0110011#7 then some .op
  else if op = 0b0110111#7 then some .lui
  else if op = 0b1100011#7 then some .branch
  else if op = 0b1100111#7 then some .jalr
  else if op = 0b1101111#7 then some .jal
  else if op = 0b1110011#7 then some .system
  else none

/-! ## The control bundle (R94) -/

/-- Operand 1 of the ALU. -/
inductive Operand1Source where
  | register | pc
  deriving DecidableEq, Repr

/-- Operand 2 of the ALU. -/
inductive Operand2Source where
  | register | immediate
  deriving DecidableEq, Repr

/-- What the register write port takes. -/
inductive WriteSource where
  | aluResult | memoryRead | pcPlus4
  deriving DecidableEq, Repr

/-- The memory operation. -/
inductive MemOp where
  | none | lb | lh | lw | lbu | lhu | sb | sh | sw
  deriving DecidableEq, Repr

/-- The control bundle. -/
structure ControlSignals where
  aluOp1Src : Operand1Source
  aluOp2Src : Operand2Source
  aluOp     : AluOp
  branchCmp : Comparison
  branchEn  : Bool
  jumpEn    : Bool
  regWe     : Bool
  regWsrc   : WriteSource
  memOp     : MemOp
  isEcall   : Bool
  deriving DecidableEq, Repr

/-- ALU operation of the OP class (R96). -/
def aluOpOfOp (f7 : BitVec 7) (f3 : BitVec 3) : Option AluOp :=
  if f7 = 0#7 then
    if f3 = 0#3 then some .add else if f3 = 1#3 then some .sll else if f3 = 2#3 then some .slt
    else if f3 = 3#3 then some .sltu else if f3 = 4#3 then some .xor else if f3 = 5#3 then some .srl
    else if f3 = 6#3 then some .or else some .and
  else if f7 = 32#7 then
    if f3 = 0#3 then some .sub else if f3 = 5#3 then some .sra else none
  else if f7 = 1#7 then
    if f3 = 0#3 then some .mul else if f3 = 1#3 then some .mulh else if f3 = 2#3 then some .mulhsu
    else if f3 = 3#3 then some .mulhu else if f3 = 4#3 then some .div else if f3 = 5#3 then some .divu
    else if f3 = 6#3 then some .rem else some .remu
  else none

/-- ALU operation of the OP-IMM class (R97). -/
def aluOpOfOpImm (f7 : BitVec 7) (f3 : BitVec 3) : Option AluOp :=
  if f3 = 0#3 then some .add else if f3 = 2#3 then some .slt else if f3 = 3#3 then some .sltu
  else if f3 = 4#3 then some .xor else if f3 = 6#3 then some .or else if f3 = 7#3 then some .and
  else if f3 = 1#3 then (if f7 = 0#7 then some .sll else none)
  else if f7 = 0#7 then some .srl else if f7 = 32#7 then some .sra else none

/-- Memory operation of the LOAD class (R98). -/
def memOpOfLoad (f3 : BitVec 3) : Option MemOp :=
  if f3 = 0#3 then some .lb else if f3 = 1#3 then some .lh else if f3 = 2#3 then some .lw
  else if f3 = 4#3 then some .lbu else if f3 = 5#3 then some .lhu else none

/-- Memory operation of the STORE class (R98). -/
def memOpOfStore (f3 : BitVec 3) : Option MemOp :=
  if f3 = 0#3 then some .sb else if f3 = 1#3 then some .sh else if f3 = 2#3 then some .sw else none

/-- Branch operator of the BRANCH class (R98). -/
def comparisonOfBranch (f3 : BitVec 3) : Option Comparison :=
  if f3 = 0#3 then some .eq else if f3 = 1#3 then some .ne else if f3 = 4#3 then some .lt
  else if f3 = 5#3 then some .ge else if f3 = 6#3 then some .ltu else if f3 = 7#3 then some .geu else none

/-- Control (R95); none is its illegal-instruction signal. -/
def controlSignals (inst : Word) : Option ControlSignals :=
  let f3 := funct3Of inst
  let f7 := funct7Of inst
  match classOf (opcodeOf inst) with
  | none => none
  | some .op =>
    match aluOpOfOp f7 f3 with
    | none => none
    | some op => some ⟨.register, .register, op, .eq, false, false, true, .aluResult, .none, false⟩
  | some .opImm =>
    match aluOpOfOpImm f7 f3 with
    | none => none
    | some op => some ⟨.register, .immediate, op, .eq, false, false, true, .aluResult, .none, false⟩
  | some .load =>
    match memOpOfLoad f3 with
    | none => none
    | some m => some ⟨.register, .immediate, .add, .eq, false, false, true, .memoryRead, m, false⟩
  | some .store =>
    match memOpOfStore f3 with
    | none => none
    | some m => some ⟨.register, .immediate, .add, .eq, false, false, false, .aluResult, m, false⟩
  | some .branch =>
    match comparisonOfBranch f3 with
    | none => none
    | some c => some ⟨.pc, .immediate, .add, c, true, false, false, .aluResult, .none, false⟩
  | some .jal => some ⟨.pc, .immediate, .add, .eq, false, true, true, .pcPlus4, .none, false⟩
  | some .jalr =>
    if f3 = 0#3 then some ⟨.register, .immediate, .add, .eq, false, true, true, .pcPlus4, .none, false⟩ else none
  | some .lui => some ⟨.register, .immediate, .pass2, .eq, false, false, true, .aluResult, .none, false⟩
  | some .auipc => some ⟨.pc, .immediate, .add, .eq, false, false, true, .aluResult, .none, false⟩
  | some .system => some ⟨.register, .register, .add, .eq, false, false, false, .aluResult, .none, true⟩

/-- Immediate (R64, R93): the format the opcode selects; 0 where no format is meant (log entry 16). -/
def immediate (inst : Word) : Word :=
  match classOf (opcodeOf inst) with
  | some .opImm | some .load | some .jalr | some .system => (inst.extractLsb' 20 12).signExtend 32
  | some .store => (inst.extractLsb' 25 7 ++ inst.extractLsb' 7 5).signExtend 32
  | some .branch =>
    (inst.extractLsb' 31 1 ++ inst.extractLsb' 7 1 ++ inst.extractLsb' 25 6 ++ inst.extractLsb' 8 4 ++ 0#1).signExtend 32
  | some .lui | some .auipc => inst.extractLsb' 12 20 ++ 0#12
  | some .jal =>
    (inst.extractLsb' 31 1 ++ inst.extractLsb' 12 8 ++ inst.extractLsb' 20 1 ++ inst.extractLsb' 21 10 ++ 0#1).signExtend 32
  | some .op | none => 0#32

/-! ## The stages of a cycle -/

/-- A data read of the memory stage: the extended value, and memory as it was (R124). -/
def stageLoad (s : State) (w : Width) (extend : BitVec w.bits → Word) (a : Word) : Except Fault (Word × Memory) :=
  match memRead s .load a w with
  | .error f => .error f
  | .ok v => .ok (extend v, s.mem)

/-- A data write of the memory stage: no value read, and memory after the edge (R124). -/
def stageStore (s : State) (w : Width) (a r2 : Word) : Except Fault (Word × Memory) :=
  match memWrite s a w (truncated w r2) with
  | .error f => .error f
  | .ok m => .ok (0#32, m)

/-- The memory stage (R124): the value read (0 where none is) and memory after the edge, or a fault. -/
def memoryStage (s : State) (op : MemOp) (a r2 : Word) : Except Fault (Word × Memory) :=
  match op with
  | .none => .ok (0#32, s.mem)
  | .lb  => stageLoad s .byte (signExtended .byte) a
  | .lh  => stageLoad s .half (signExtended .half) a
  | .lw  => stageLoad s .word (signExtended .word) a
  | .lbu => stageLoad s .byte (zeroExtended .byte) a
  | .lhu => stageLoad s .half (zeroExtended .half) a
  | .sb  => stageStore s .byte a r2
  | .sh  => stageStore s .half a r2
  | .sw  => stageStore s .word a r2

/-- Operand 1 (R99). -/
def operand1 (c : ControlSignals) (pc r1 : Word) : Word :=
  match c.aluOp1Src with
  | .register => r1
  | .pc => pc

/-- Operand 2 (R99). -/
def operand2 (c : ControlSignals) (r2 imm : Word) : Word :=
  match c.aluOp2Src with
  | .register => r2
  | .immediate => imm

/-- The take-alternate decision (R121). -/
def takeAlternate (c : ControlSignals) (r1 r2 : Word) : Bool := (c.branchEn && cmpWords c.branchCmp r1 r2) || c.jumpEn

/-- Write-back selection (R123). -/
def writeBack (c : ControlSignals) (res mdata pcPlus4 : Word) : Word :=
  match c.regWsrc with
  | .aluResult => res
  | .memoryRead => mdata
  | .pcPlus4 => pcPlus4

/-- The clock edge: everything the cycle scheduled, all at once (R12, R122, R125, R126). -/
def commitCycle (s : State) (inst : Word) (c : ControlSignals) (res mdata r1 r2 : Word) (m : Memory) : State where
  pc    := if takeAlternate c r1 r2 then res else s.pcPlus4
  regs  := if c.regWe then s.regs.write (rdOf inst) (writeBack c res mdata s.pcPlus4) else s.regs
  mem   := m
  run   := if c.isEcall then .haltPending else s.run
  trace := if c.isEcall then s.trace ++ [.ecallNotify s.pc s.regs] else s.trace
  cfg   := s.cfg

/-- A cycle in run state Running after its fetch (R90). -/
def evaluate (s : State) (inst : Word) : Host.Outcome State Fault Refusal :=
  match controlSignals inst with
  | none => raise (.illegalInstruction inst s.pc)
  | some c =>
    let r1 := s.readReg (rs1Of inst)
    let r2 := s.readReg (rs2Of inst)
    let res := alu c.aluOp (operand1 c s.pc r1) (operand2 c r2 (immediate inst))
    match memoryStage s c.memOp res r2 with
    | .error f => raise f
    | .ok (mdata, m) => .next (commitCycle s inst c res mdata r1 r2 m)

/-- The whole of rule R90's `Step()`, signal by signal. -/
def datapathStep (s : State) : Host.Outcome State Fault Refusal :=
  match s.run with
  | .halted => .next s
  | .haltPending => .next { s with run := .halted, trace := s.trace ++ [.finished] }
  | .running =>
    match fetchWord s with
    | .error f => raise f
    | .ok inst => evaluate s inst

end Sys2Proof.Machine
end

