-- ==== Sys2Proof/Machine/Footprint.lean ====
section
/-!
DEFINITION. What an instruction may touch, as functions of its syntax and the pre-edge state: the words claims about frames use
(spec/10_state.md rule R14, spec/20_memory.md rule R48). The meanings do not use them.
-/

namespace Sys2Proof.Machine

/-- The register an instruction names as its destination: none for stores, branches and ECALL (R14). -/
def destination : Instr → Option Reg
  | .add rd _ _ => some rd
  | .sub rd _ _ => some rd
  | .sll rd _ _ => some rd
  | .slt rd _ _ => some rd
  | .sltu rd _ _ => some rd
  | .xor rd _ _ => some rd
  | .srl rd _ _ => some rd
  | .sra rd _ _ => some rd
  | .or rd _ _ => some rd
  | .and rd _ _ => some rd
  | .mul rd _ _ => some rd
  | .mulh rd _ _ => some rd
  | .mulhsu rd _ _ => some rd
  | .mulhu rd _ _ => some rd
  | .div rd _ _ => some rd
  | .divu rd _ _ => some rd
  | .rem rd _ _ => some rd
  | .remu rd _ _ => some rd
  | .addi rd _ _ => some rd
  | .slti rd _ _ => some rd
  | .sltiu rd _ _ => some rd
  | .xori rd _ _ => some rd
  | .ori rd _ _ => some rd
  | .andi rd _ _ => some rd
  | .slli rd _ _ => some rd
  | .srli rd _ _ => some rd
  | .srai rd _ _ => some rd
  | .lb rd _ _ => some rd
  | .lh rd _ _ => some rd
  | .lw rd _ _ => some rd
  | .lbu rd _ _ => some rd
  | .lhu rd _ _ => some rd
  | .sb _ _ _ => none
  | .sh _ _ _ => none
  | .sw _ _ _ => none
  | .beq _ _ _ => none
  | .bne _ _ _ => none
  | .blt _ _ _ => none
  | .bge _ _ _ => none
  | .bltu _ _ _ => none
  | .bgeu _ _ _ => none
  | .jal rd _ => some rd
  | .jalr rd _ _ => some rd
  | .lui rd _ => some rd
  | .auipc rd _ => some rd
  | .ecall => none

/-- The data access an instruction makes: for what, where (the effective address the meaning itself uses) and how wide; none for an
instruction that is no load or store (R48). -/
def dataAccess (s : State) : Instr → Option (AccessKind × Word × Width)
  | .add _ _ _ => none
  | .sub _ _ _ => none
  | .sll _ _ _ => none
  | .slt _ _ _ => none
  | .sltu _ _ _ => none
  | .xor _ _ _ => none
  | .srl _ _ _ => none
  | .sra _ _ _ => none
  | .or _ _ _ => none
  | .and _ _ _ => none
  | .mul _ _ _ => none
  | .mulh _ _ _ => none
  | .mulhsu _ _ _ => none
  | .mulhu _ _ _ => none
  | .div _ _ _ => none
  | .divu _ _ _ => none
  | .rem _ _ _ => none
  | .remu _ _ _ => none
  | .addi _ _ _ => none
  | .slti _ _ _ => none
  | .sltiu _ _ _ => none
  | .xori _ _ _ => none
  | .ori _ _ _ => none
  | .andi _ _ _ => none
  | .slli _ _ _ => none
  | .srli _ _ _ => none
  | .srai _ _ _ => none
  | .lb _ rs1 imm => some (.load, s.effectiveAddress rs1 (immI imm), .byte)
  | .lh _ rs1 imm => some (.load, s.effectiveAddress rs1 (immI imm), .half)
  | .lw _ rs1 imm => some (.load, s.effectiveAddress rs1 (immI imm), .word)
  | .lbu _ rs1 imm => some (.load, s.effectiveAddress rs1 (immI imm), .byte)
  | .lhu _ rs1 imm => some (.load, s.effectiveAddress rs1 (immI imm), .half)
  | .sb _ rs1 imm => some (.store, s.effectiveAddress rs1 (immS imm), .byte)
  | .sh _ rs1 imm => some (.store, s.effectiveAddress rs1 (immS imm), .half)
  | .sw _ rs1 imm => some (.store, s.effectiveAddress rs1 (immS imm), .word)
  | .beq _ _ _ => none
  | .bne _ _ _ => none
  | .blt _ _ _ => none
  | .bge _ _ _ => none
  | .bltu _ _ _ => none
  | .bgeu _ _ _ => none
  | .jal _ _ => none
  | .jalr _ _ _ => none
  | .lui _ _ => none
  | .auipc _ _ => none
  | .ecall => none

/-- The instruction is a branch or a jump: its next program counter need not be `pc + 4` (R16). -/
def transfersControl : Instr → Bool
  | .add _ _ _ => false
  | .sub _ _ _ => false
  | .sll _ _ _ => false
  | .slt _ _ _ => false
  | .sltu _ _ _ => false
  | .xor _ _ _ => false
  | .srl _ _ _ => false
  | .sra _ _ _ => false
  | .or _ _ _ => false
  | .and _ _ _ => false
  | .mul _ _ _ => false
  | .mulh _ _ _ => false
  | .mulhsu _ _ _ => false
  | .mulhu _ _ _ => false
  | .div _ _ _ => false
  | .divu _ _ _ => false
  | .rem _ _ _ => false
  | .remu _ _ _ => false
  | .addi _ _ _ => false
  | .slti _ _ _ => false
  | .sltiu _ _ _ => false
  | .xori _ _ _ => false
  | .ori _ _ _ => false
  | .andi _ _ _ => false
  | .slli _ _ _ => false
  | .srli _ _ _ => false
  | .srai _ _ _ => false
  | .lb _ _ _ => false
  | .lh _ _ _ => false
  | .lw _ _ _ => false
  | .lbu _ _ _ => false
  | .lhu _ _ _ => false
  | .sb _ _ _ => false
  | .sh _ _ _ => false
  | .sw _ _ _ => false
  | .beq _ _ _ => true
  | .bne _ _ _ => true
  | .blt _ _ _ => true
  | .bge _ _ _ => true
  | .bltu _ _ _ => true
  | .bgeu _ _ _ => true
  | .jal _ _ => true
  | .jalr _ _ _ => true
  | .lui _ _ => false
  | .auipc _ _ => false
  | .ecall => false

end Sys2Proof.Machine
end

