-- ==== Sys2Proof/Machine/HostOps.lean ====
section
/-!
DEFINITION. The operations the core offers its caller (spec/00_scope.md rule R8): Step with its result, Reset, Capture, Restore.
Each is one transition and may be used between any two steps (spec/70_reset_and_hazards.md rules R242, R246, R247).
-/

namespace Sys2Proof.Machine

/-- What `Step()` returns (R8, R90). -/
inductive StepResult where
  | ok
  | fault (f : Fault)
  | halted
  | refused (r : Refusal)
  deriving DecidableEq, Repr

/-- `Step()` as its caller sees it: the result, and the state afterwards, which after a fault is the state before (R214). -/
def clock (s : State) : StepResult × State :=
  match step s with
  | .next t => (if s.run = .halted then .halted else .ok, t)
  | .fault f => (.fault f, s)
  | .refused r => (.refused r, s)

/-- The notifications a step emitted, from the state before and the state after (R8). -/
def emitted (s t : State) : List Notification := t.trace.drop s.trace.length

/-- `Reset()` (R240): the configured initial values, run state Running, no notification (log entry 5). -/
def State.hostReset (s : State) : State := { State.ofConfig s.cfg with trace := s.trace }

/-- A snapshot (R246; log entry 18). -/
structure Snapshot where
  pc   : Word
  regs : RegFile
  mem  : Memory
  run  : RunState
  deriving DecidableEq, Repr

/-- `Capture()` (R246). -/
def State.capture (s : State) : Snapshot := ⟨s.pc, s.regs, s.mem, s.run⟩

/-- `Restore(s)` (R247): everything the snapshot holds, no notification (log entries 5 and 18). -/
def State.restore (s : State) (p : Snapshot) : State :=
  { s with pc := p.pc, regs := p.regs, mem := p.mem, run := p.run }

/-- One operation of the caller (R8). -/
inductive HostOp where
  | step
  | reset
  | capture
  | restore (p : Snapshot)
  deriving DecidableEq, Repr

/-- The state after an operation of the caller. -/
def hostOp (s : State) : HostOp → State
  | .step => (clock s).2
  | .reset => s.hostReset
  | .capture => s
  | .restore p => s.restore p

end Sys2Proof.Machine
end

