-- ==== Sys2Proof/Safety.lean ====
section
/-!
DEFINITION. The terms claims use: the invariant of the machine's data, safe runs and the end of a run (spec/70_reset_and_hazards.md
rule R245).
-/

namespace Sys2Proof.Machine

/-- The invariant: memory is in canonical form and gives bytes to existing addresses only (R40), and the configuration is what rule
R7 asks of it. -/
structure State.Inv (s : State) : Prop where
  canonical : Memory.wf s.mem = true
  existing  : ∀ c ∈ s.mem, addressExists s.cfg c.1 = true
  config    : configWf s.cfg = true

/-- A snapshot is meaningful under a configuration (R247): its memory is that of a state meeting the invariant. -/
structure Snapshot.Fits (p : Snapshot) (c : Config) : Prop where
  canonical : Memory.wf p.mem = true
  existing  : ∀ e ∈ p.mem, addressExists c e.1 = true

/-- The run of `n` steps meets no fault. -/
def SafeFor (n : Nat) (s : State) : Prop := ∃ t, Sys2Proof.core.run n s = .next t

/-- The normal end of a run (R226, R245 a). -/
def EndsIn (s t : State) : Prop := ∃ n, Sys2Proof.core.run n s = .next t ∧ t.run = .halted

end Sys2Proof.Machine
end

