-- ==== Sys2Proof/Certificates/Slice0/Obligations.lean ====
section
/-!
DEFINITION. The statements for the provers. Values are given by the arithmetic of the spec's rules (on Nat and Int, or bit by bit),
not by the operations of the model. OBLIGATIONS.json lists them with the rules they rest on.
-/

namespace Sys2Proof.Claims
open Sys2Proof.Machine

/-! ## Vocabulary -/

/-- Every byte of memory reads as before. -/
def SameMemory (s t : State) : Prop := ∀ a : Nat, t.mem.read a = s.mem.read a

/-- Every register reads as before. -/
def SameRegisters (s t : State) : Prop := ∀ r : Reg, t.readReg r = s.readReg r

/-- The run state, the notifications and the configuration are as before. -/
def SameRest (s t : State) : Prop := t.run = s.run ∧ t.trace = s.trace ∧ t.cfg = s.cfg

/-- `rd` reads `v` (nothing is written if `rd` is register 0) and every other register reads as before. -/
def WritesRegister (s t : State) (rd : Reg) (v : Word) : Prop :=
  ∀ r : Reg, t.readReg r = if r ≠ 0 ∧ r = rd then v else s.readReg r

/-- The instruction completes, writes `v` to `rd`, goes on to `target`, and changes nothing else. -/
def CompletesTo (i : Instr) (s : State) (rd : Reg) (v target : Word) : Prop :=
  ∃ t, exec i s = .next t ∧ WritesRegister s t rd v ∧ t.pc = target ∧ SameMemory s t ∧ SameRest s t

/-- The instruction completes, writes `v` to `rd`, advances the program counter by 4, and changes nothing else. -/
def Completes (i : Instr) (s : State) (rd : Reg) (v : Word) : Prop := CompletesTo i s rd v (s.pc + 4#32)

/-- The instruction completes with the program counter at `target` and changes nothing else. -/
def GoesTo (i : Instr) (s : State) (target : Word) : Prop :=
  ∃ t, exec i s = .next t ∧ t.pc = target ∧ SameRegisters s t ∧ SameMemory s t ∧ SameRest s t

/-- The instruction completes, the `n` bytes from `a` on are the low bytes of `v`, lowest first, every other byte of memory is as
before, the program counter advances by 4, and nothing else changes. -/
def Stores (i : Instr) (s : State) (a n : Nat) (v : Word) : Prop :=
  ∃ t, exec i s = .next t ∧ t.pc = s.pc + 4#32 ∧ SameRegisters s t ∧ SameRest s t ∧
    (∀ k, k < n → t.mem.read (a + k) = BitVec.ofNat 8 (v.toNat / 2 ^ (8 * k))) ∧
    (∀ b, b < a ∨ a + n ≤ b → t.mem.read b = s.mem.read b)

/-- The `n` bytes from `a` on exist. -/
def BytesExist (s : State) (a n : Nat) : Prop := ∀ k, k < n → addressExists s.cfg (a + k) = true

/-- The little-endian value of the `n` bytes from `a` on. -/
def littleEndian (m : Memory) (a : Nat) : Nat → Nat
  | 0 => 0
  | n + 1 => (m.read a).toNat + 2 ^ 8 * littleEndian m (a + 1) n

/-- The word at the program counter. -/
def wordAtPc (s : State) : Word := BitVec.ofNat 32 (littleEndian s.mem s.pc.toNat 4)

/-- The fetch at the program counter is aligned and in range. -/
def FetchAllowed (s : State) : Prop := s.pc.toNat % 4 = 0 ∧ BytesExist s s.pc.toNat 4

/-- Everything but the notifications agrees. -/
def AgreeButTrace (s t : State) : Prop :=
  t.pc = s.pc ∧ t.regs = s.regs ∧ t.mem = s.mem ∧ t.run = s.run ∧ t.cfg = s.cfg

/-- The cycle takes the alternate program counter: a jump, or a branch whose comparison holds. -/
def TakesAlternate (s : State) : Prop :=
  ∃ c, controlSignals (wordAtPc s) = some c ∧
    takeAlternate c (s.readReg (rs1Of (wordAtPc s))) (s.readReg (rs2Of (wordAtPc s))) = true

/-- `n` cycles in run state Running with no taken branch, no jump and no fault. -/
def StraightLine : Nat → State → Prop
  | 0, _ => True
  | n + 1, s => s.run = .running ∧ ¬ TakesAlternate s ∧ ∃ t, step s = .next t ∧ StraightLine n t

/-- The state after `n` calls of Step, whatever they return. -/
def clocked : Nat → State → State
  | 0, s => s
  | n + 1, s => clocked n (clock s).2

end Sys2Proof.Claims

open Sys2Proof Sys2Proof.Machine Sys2Proof.Claims

/-! ## Reset -/

/-- R240: Reset gives the configured values, run state Running, and emits nothing. -/
def Obligations.ResetGivesConfiguredValues : Prop :=
  ∀ s : State,
    s.hostReset.pc = s.cfg.pcReset ∧ s.hostReset.readReg 0 = 0#32 ∧
    (∀ i : Fin 31, s.hostReset.readReg i.succ = s.cfg.regInit[i]) ∧
    (∀ a, s.hostReset.mem.read a = Memory.read s.cfg.memInit a) ∧
    s.hostReset.run = .running ∧ s.hostReset.trace = s.trace ∧ s.hostReset.cfg = s.cfg

/-- The default configuration's reset state. Model's choice: log entries 2 (MEM_VALID), 3 (MEM_INIT), 4 (PC_RESET, REG_INIT). -/
def Obligations.ResetStateDefaults : Prop :=
  State.reset.pc = 0#32 ∧ (∀ r : Reg, State.reset.readReg r = 0#32) ∧ (∀ a, State.reset.mem.read a = 0#8) ∧
  State.reset.run = .running ∧ State.reset.trace = [] ∧
  (∀ a, addressExists State.reset.cfg a = true ↔ a < 0x10000)

/-! ## The invariant -/

/-- The invariant holds at reset, under the default and under every sound configuration. -/
def Obligations.ResetMeetsInvariant : Prop :=
  State.reset.Inv ∧ ∀ c : Config, configWf c = true → (State.ofConfig c).Inv

/-- Every step keeps the invariant: memory stays canonical and inside MEM_VALID (R25, R40), the configuration stays sound. -/
def Obligations.StepKeepsInvariant : Prop :=
  ∀ s t : State, s.Inv → step s = .next t → t.Inv

/-- Every operation of the caller keeps the invariant, a restore where its snapshot fits the configuration (R8, R247). -/
def Obligations.HostOperationsKeepInvariant : Prop :=
  ∀ (s : State) (op : HostOp), s.Inv → (∀ p, op = .restore p → p.Fits s.cfg) → (hostOp s op).Inv

/-- The canonical form is canonical: memories that read alike are the same list. Model's choice of representation: log entry 3. -/
def Obligations.CanonicalMemoriesReadingAlikeAreEqual : Prop :=
  ∀ m n : Memory, m.wf = true → n.wf = true → (∀ a, m.read a = n.read a) → m = n

/-! ## Registers -/

/-- After any sequence of writes register 0 reads 0 and every other register reads what was last written to it (spec/10_state.md
section 1). -/
def Obligations.RegistersReadTheLastWrite : Prop :=
  ∀ (s : State) (ws : List (Reg × Word)) (r : Reg),
    (ws.foldl (fun u w => u.writeReg w.1 w.2) s).readReg r
      = if r = 0 then 0#32
        else match ws.reverse.find? (fun w => decide (w.1 = r)) with
          | some w => w.2
          | none => s.readReg r

/-! ## Register-register instructions -/

/-- R101, R102: ADD and SUB are modulo 2^32, the same for signed and unsigned readings. -/
def Obligations.AddSubResult : Prop :=
  (∀ a b : Word, alu .add a b = BitVec.ofNat 32 (a.toNat + b.toNat) ∧ alu .add a b = BitVec.ofInt 32 (a.toInt + b.toInt) ∧
    alu .sub a b = BitVec.ofInt 32 (a.toNat - b.toNat : Int) ∧ alu .sub a b = BitVec.ofInt 32 (a.toInt - b.toInt)) ∧
  ∀ (s : State) (rd rs1 rs2 : Reg),
    Completes (.add rd rs1 rs2) s rd (BitVec.ofNat 32 ((s.readReg rs1).toNat + (s.readReg rs2).toNat)) ∧
    Completes (.sub rd rs1 rs2) s rd (BitVec.ofInt 32 ((s.readReg rs1).toNat - (s.readReg rs2).toNat : Int))

/-- R103, R104, R105: AND, OR and XOR bit by bit. -/
def Obligations.LogicResult : Prop :=
  (∀ (a b : Word) (k : Nat), (alu .and a b).getLsbD k = (a.getLsbD k && b.getLsbD k) ∧
    (alu .or a b).getLsbD k = (a.getLsbD k || b.getLsbD k) ∧
    (alu .xor a b).getLsbD k = (a.getLsbD k != b.getLsbD k)) ∧
  ∀ (s : State) (rd rs1 rs2 : Reg), ∃ v1 v2 v3 : Word,
    Completes (.and rd rs1 rs2) s rd v1 ∧ Completes (.or rd rs1 rs2) s rd v2 ∧ Completes (.xor rd rs1 rs2) s rd v3 ∧
    ∀ k, v1.getLsbD k = ((s.readReg rs1).getLsbD k && (s.readReg rs2).getLsbD k) ∧
      v2.getLsbD k = ((s.readReg rs1).getLsbD k || (s.readReg rs2).getLsbD k) ∧
      v3.getLsbD k = ((s.readReg rs1).getLsbD k != (s.readReg rs2).getLsbD k)

/-- SLL, SRL and SRA shift by the low five bits of `x[rs2]`, the right shifts rounding down. The amount is the spec's decision D22
(log entry 19). -/
def Obligations.ShiftResult : Prop :=
  ∀ (s : State) (rd rs1 rs2 : Reg),
    Completes (.sll rd rs1 rs2) s rd
      (BitVec.ofNat 32 ((s.readReg rs1).toNat * 2 ^ ((s.readReg rs2).toNat % 32))) ∧
    Completes (.srl rd rs1 rs2) s rd
      (BitVec.ofNat 32 ((s.readReg rs1).toNat / 2 ^ ((s.readReg rs2).toNat % 32))) ∧
    Completes (.sra rd rs1 rs2) s rd
      (BitVec.ofInt 32 ((s.readReg rs1).toInt / 2 ^ ((s.readReg rs2).toNat % 32)))

/-- R109, R110: SLT and SLTU are exact comparisons giving 1 or 0. -/
def Obligations.SetLessThanResult : Prop :=
  (∀ a b : Word, alu .slt a b = (if a.toInt < b.toInt then 1#32 else 0#32) ∧
    alu .sltu a b = (if a.toNat < b.toNat then 1#32 else 0#32)) ∧
  ∀ (s : State) (rd rs1 rs2 : Reg),
    Completes (.slt rd rs1 rs2) s rd (if (s.readReg rs1).toInt < (s.readReg rs2).toInt then 1#32 else 0#32) ∧
    Completes (.sltu rd rs1 rs2) s rd (if (s.readReg rs1).toNat < (s.readReg rs2).toNat then 1#32 else 0#32)

/-- R111: MUL is the low word of the product, the same for signed and unsigned readings. -/
def Obligations.MulLowResult : Prop :=
  (∀ a b : Word, alu .mul a b = BitVec.ofNat 32 (a.toNat * b.toNat) ∧ alu .mul a b = BitVec.ofInt 32 (a.toInt * b.toInt)) ∧
  ∀ (s : State) (rd rs1 rs2 : Reg),
    Completes (.mul rd rs1 rs2) s rd (BitVec.ofNat 32 ((s.readReg rs1).toNat * (s.readReg rs2).toNat))

/-- MULH, MULHU and MULHSU are bits 63..32 of the exact product. What they multiply is the spec's decision D22 (log entry 19). -/
def Obligations.MulHighResult : Prop :=
  ∀ (s : State) (rd rs1 rs2 : Reg),
    Completes (.mulh rd rs1 rs2) s rd (BitVec.ofInt 32 ((s.readReg rs1).toInt * (s.readReg rs2).toInt / 2 ^ 32)) ∧
    Completes (.mulhu rd rs1 rs2) s rd (BitVec.ofNat 32 ((s.readReg rs1).toNat * (s.readReg rs2).toNat / 2 ^ 32)) ∧
    Completes (.mulhsu rd rs1 rs2) s rd
      (BitVec.ofInt 32 ((s.readReg rs1).toInt * ((s.readReg rs2).toNat : Int) / 2 ^ 32))

/-- DIV and REM: by zero all ones and the dividend, on overflow the dividend and 0, else toward zero with the dividend's sign. The
rounding is the spec's decision D22 (log entry 19). -/
def Obligations.SignedDivisionResult : Prop :=
  ∀ (s : State) (rd rs1 rs2 : Reg),
    Completes (.div rd rs1 rs2) s rd
      (if (s.readReg rs2).toInt = 0 then 0xFFFFFFFF#32
       else if (s.readReg rs1).toInt = -2 ^ 31 ∧ (s.readReg rs2).toInt = -1 then 0x80000000#32
       else BitVec.ofInt 32 ((s.readReg rs1).toInt.tdiv (s.readReg rs2).toInt)) ∧
    Completes (.rem rd rs1 rs2) s rd
      (if (s.readReg rs2).toInt = 0 then s.readReg rs1
       else if (s.readReg rs1).toInt = -2 ^ 31 ∧ (s.readReg rs2).toInt = -1 then 0x00000000#32
       else BitVec.ofInt 32 ((s.readReg rs1).toInt
         - (s.readReg rs2).toInt * (s.readReg rs1).toInt.tdiv (s.readReg rs2).toInt))

/-- R116, R118: DIVU and REMU: by zero all ones and the dividend, else quotient and remainder. -/
def Obligations.UnsignedDivisionResult : Prop :=
  (∀ a b : Word,
    (alu .divu a b).toNat = (if b.toNat = 0 then 2 ^ 32 - 1 else a.toNat / b.toNat) ∧
    (alu .remu a b).toNat = (if b.toNat = 0 then a.toNat else a.toNat % b.toNat)) ∧
  ∀ (s : State) (rd rs1 rs2 : Reg),
    Completes (.divu rd rs1 rs2) s rd
      (if (s.readReg rs2).toNat = 0 then 0xFFFFFFFF#32
       else BitVec.ofNat 32 ((s.readReg rs1).toNat / (s.readReg rs2).toNat)) ∧
    Completes (.remu rd rs1 rs2) s rd
      (if (s.readReg rs2).toNat = 0 then s.readReg rs1
       else BitVec.ofNat 32 ((s.readReg rs1).toNat % (s.readReg rs2).toNat))

/-- Quotient times divisor plus remainder is the dividend modulo 2^32, division by zero and overflow included: of the values DIV and
REM leave in `rd`, and of those of DIVU and REMU (spec/42_muldiv.md, under REM). -/
def Obligations.QuotientTimesDivisorPlusRemainder : Prop :=
  ∀ (s : State) (rd rs1 rs2 : Reg), rd ≠ 0 →
    (∃ t u, exec (.div rd rs1 rs2) s = .next t ∧ exec (.rem rd rs1 rs2) s = .next u ∧
      t.readReg rd * s.readReg rs2 + u.readReg rd = s.readReg rs1) ∧
    (∃ t u, exec (.divu rd rs1 rs2) s = .next t ∧ exec (.remu rd rs1 rs2) s = .next u ∧
      t.readReg rd * s.readReg rs2 + u.readReg rd = s.readReg rs1)

/-! ## Register-immediate instructions -/

/-- ADDI adds the sign-extended immediate; ANDI, ORI and XORI combine bit by bit, bits 31..11 of the immediate being its bit 11. -/
def Obligations.ImmediateArithmeticResult : Prop :=
  ∀ (s : State) (rd rs1 : Reg) (imm : BitVec 12),
    Completes (.addi rd rs1 imm) s rd (BitVec.ofInt 32 ((s.readReg rs1).toInt + imm.toInt)) ∧
    ∃ v1 v2 v3 : Word,
      Completes (.andi rd rs1 imm) s rd v1 ∧ Completes (.ori rd rs1 imm) s rd v2 ∧ Completes (.xori rd rs1 imm) s rd v3 ∧
      ∀ k, k < 32 →
        v1.getLsbD k = ((s.readReg rs1).getLsbD k && imm.getLsbD (min k 11)) ∧
        v2.getLsbD k = ((s.readReg rs1).getLsbD k || imm.getLsbD (min k 11)) ∧
        v3.getLsbD k = ((s.readReg rs1).getLsbD k != imm.getLsbD (min k 11))

/-- SLTI compares signed values; SLTIU compares with the sign-extended immediate read as unsigned. -/
def Obligations.ImmediateComparisonResult : Prop :=
  ∀ (s : State) (rd rs1 : Reg) (imm : BitVec 12),
    Completes (.slti rd rs1 imm) s rd (if (s.readReg rs1).toInt < imm.toInt then 1#32 else 0#32) ∧
    Completes (.sltiu rd rs1 imm) s rd
      (if ((s.readReg rs1).toNat : Int) < imm.toInt % 2 ^ 32 then 1#32 else 0#32)

/-- SLLI, SRLI and SRAI shift by `shamt`, the right shifts rounding down. -/
def Obligations.ImmediateShiftResult : Prop :=
  ∀ (s : State) (rd rs1 : Reg) (shamt : BitVec 5),
    Completes (.slli rd rs1 shamt) s rd (BitVec.ofNat 32 ((s.readReg rs1).toNat * 2 ^ shamt.toNat)) ∧
    Completes (.srli rd rs1 shamt) s rd (BitVec.ofNat 32 ((s.readReg rs1).toNat / 2 ^ shamt.toNat)) ∧
    Completes (.srai rd rs1 shamt) s rd (BitVec.ofInt 32 ((s.readReg rs1).toInt / 2 ^ shamt.toNat))

/-- LUI writes the 20 bits above twelve zeros, whatever any register holds; AUIPC adds that to the program counter. -/
def Obligations.UpperImmediateResult : Prop :=
  ∀ (s : State) (rd : Reg) (imm20 : BitVec 20),
    Completes (.lui rd imm20) s rd (BitVec.ofNat 32 (imm20.toNat * 2 ^ 12)) ∧
    Completes (.auipc rd imm20) s rd (BitVec.ofNat 32 (s.pc.toNat + imm20.toNat * 2 ^ 12))

/-! ## Loads and stores -/

/-- Program-counter and address arithmetic is modulo 2^32 (the spec's decision D19, log entry 20). -/
def Obligations.AddressArithmeticWraps : Prop :=
  ∀ (s : State) (rs1 : Reg) (imm : BitVec 12),
    s.pcPlus4.toNat = (s.pc.toNat + 4) % 2 ^ 32 ∧
    ((s.effectiveAddress rs1 (immI imm)).toNat : Int) = ((s.readReg rs1).toNat + imm.toInt) % 2 ^ 32 ∧
    ((s.effectiveAddress rs1 (immS imm)).toNat : Int) = ((s.readReg rs1).toNat + imm.toInt) % 2 ^ 32

/-- Loads complete where the access is aligned and in range: the little-endian value, sign-extended by LB and LH, zero-extended by
LBU and LHU; with `rd` register 0 nothing is written. Byte order and alignment are the spec's decisions D3 and D5 (log entries 11, 12). -/
def Obligations.LoadResult : Prop :=
  ∀ (s : State) (rd rs1 : Reg) (imm : BitVec 12) (a : Nat), a = (s.effectiveAddress rs1 (immI imm)).toNat →
    (BytesExist s a 1 →
      Completes (.lb rd rs1 imm) s rd (BitVec.ofInt 32 (BitVec.ofNat 8 (littleEndian s.mem a 1)).toInt) ∧
      Completes (.lbu rd rs1 imm) s rd (BitVec.ofNat 32 (littleEndian s.mem a 1))) ∧
    (a % 2 = 0 → BytesExist s a 2 →
      Completes (.lh rd rs1 imm) s rd (BitVec.ofInt 32 (BitVec.ofNat 16 (littleEndian s.mem a 2)).toInt) ∧
      Completes (.lhu rd rs1 imm) s rd (BitVec.ofNat 32 (littleEndian s.mem a 2))) ∧
    (a % 4 = 0 → BytesExist s a 4 →
      Completes (.lw rd rs1 imm) s rd (BitVec.ofNat 32 (littleEndian s.mem a 4)))

/-- Stores complete where the access is aligned and in range: the low bytes of `x[rs2]`, lowest first, and nothing else. Byte order
and alignment are the spec's decisions D3 and D5 (log entries 11, 12). -/
def Obligations.StoreResult : Prop :=
  ∀ (s : State) (rs2 rs1 : Reg) (imm : BitVec 12) (a : Nat), a = (s.effectiveAddress rs1 (immS imm)).toNat →
    (BytesExist s a 1 → Stores (.sb rs2 rs1 imm) s a 1 (s.readReg rs2)) ∧
    (a % 2 = 0 → BytesExist s a 2 → Stores (.sh rs2 rs1 imm) s a 2 (s.readReg rs2)) ∧
    (a % 4 = 0 → BytesExist s a 4 → Stores (.sw rs2 rs1 imm) s a 4 (s.readReg rs2))

/-- Where a load faults and with which fault, `rd` register 0 included; misaligned is reported before out of range. Alignment, the
priority and the names are the spec's decisions D5, D13 and D14 (log entries 12, 17). -/
def Obligations.LoadFaults : Prop :=
  ∀ (s : State) (rd rs1 : Reg) (imm : BitVec 12) (a : Word), a = s.effectiveAddress rs1 (immI imm) →
    (a.toNat % 2 ≠ 0 →
      exec (.lh rd rs1 imm) s = .fault (.memoryAccess .load .misaligned a .half s.pc) ∧
      exec (.lhu rd rs1 imm) s = .fault (.memoryAccess .load .misaligned a .half s.pc)) ∧
    (a.toNat % 4 ≠ 0 → exec (.lw rd rs1 imm) s = .fault (.memoryAccess .load .misaligned a .word s.pc)) ∧
    (¬ BytesExist s a.toNat 1 →
      exec (.lb rd rs1 imm) s = .fault (.memoryAccess .load .outOfRange a .byte s.pc) ∧
      exec (.lbu rd rs1 imm) s = .fault (.memoryAccess .load .outOfRange a .byte s.pc)) ∧
    (a.toNat % 2 = 0 → ¬ BytesExist s a.toNat 2 →
      exec (.lh rd rs1 imm) s = .fault (.memoryAccess .load .outOfRange a .half s.pc) ∧
      exec (.lhu rd rs1 imm) s = .fault (.memoryAccess .load .outOfRange a .half s.pc)) ∧
    (a.toNat % 4 = 0 → ¬ BytesExist s a.toNat 4 →
      exec (.lw rd rs1 imm) s = .fault (.memoryAccess .load .outOfRange a .word s.pc))

/-- Where a store faults and with which fault; misaligned is reported before out of range. Alignment, the priority and the names are
the spec's decisions D5, D13 and D14 (log entries 12, 17). -/
def Obligations.StoreFaults : Prop :=
  ∀ (s : State) (rs2 rs1 : Reg) (imm : BitVec 12) (a : Word), a = s.effectiveAddress rs1 (immS imm) →
    (a.toNat % 2 ≠ 0 → exec (.sh rs2 rs1 imm) s = .fault (.memoryAccess .store .misaligned a .half s.pc)) ∧
    (a.toNat % 4 ≠ 0 → exec (.sw rs2 rs1 imm) s = .fault (.memoryAccess .store .misaligned a .word s.pc)) ∧
    (¬ BytesExist s a.toNat 1 → exec (.sb rs2 rs1 imm) s = .fault (.memoryAccess .store .outOfRange a .byte s.pc)) ∧
    (a.toNat % 2 = 0 → ¬ BytesExist s a.toNat 2 →
      exec (.sh rs2 rs1 imm) s = .fault (.memoryAccess .store .outOfRange a .half s.pc)) ∧
    (a.toNat % 4 = 0 → ¬ BytesExist s a.toNat 4 →
      exec (.sw rs2 rs1 imm) s = .fault (.memoryAccess .store .outOfRange a .word s.pc))

/-- After a word store the next cycle's loads from the same address see it: the word exactly, and each byte of it at its
little-endian place (the spec's decision D3, log entry 11). -/
def Obligations.StoreThenLoad : Prop :=
  ∀ (s t : State) (rs2 rs1 rd base : Reg) (imm imm' : BitVec 12), exec (.sw rs2 rs1 imm) s = .next t →
    (t.effectiveAddress base (immI imm') = s.effectiveAddress rs1 (immS imm) →
      Completes (.lw rd base imm') t rd (s.readReg rs2)) ∧
    ∀ k, k < 4 → (t.effectiveAddress base (immI imm')).toNat = (s.effectiveAddress rs1 (immS imm)).toNat + k →
      Completes (.lbu rd base imm') t rd (BitVec.ofNat 32 ((s.readReg rs2).toNat / 2 ^ (8 * k) % 2 ^ 8))

/-- A word stored over the next instruction is the word the next cycle fetches and runs (the spec's decision D4, log entry 10). -/
def Obligations.StoreThenFetch : Prop :=
  ∀ (s t : State) (rs2 rs1 : Reg) (imm : BitVec 12), exec (.sw rs2 rs1 imm) s = .next t →
    s.effectiveAddress rs1 (immS imm) = t.pc →
      fetchWord t = .ok (s.readReg rs2) ∧
      ∀ i, t.run = .running → decodeWord (s.readReg rs2) = .ok i → step t = exec i t

/-! ## Branches and jumps -/

/-- R120: the six comparisons. -/
def Obligations.ComparatorTable : Prop :=
  ∀ a b : Word,
    cmpWords .eq a b = decide (a = b) ∧ cmpWords .ne a b = decide (a ≠ b) ∧
    cmpWords .lt a b = decide (a.toInt < b.toInt) ∧ cmpWords .ge a b = decide (a.toInt ≥ b.toInt) ∧
    cmpWords .ltu a b = decide (a.toNat < b.toNat) ∧ cmpWords .geu a b = decide (a.toNat ≥ b.toNat) ∧
    cmpWords .ne a b = !cmpWords .eq a b ∧ cmpWords .ge a b = !cmpWords .lt a b ∧ cmpWords .geu a b = !cmpWords .ltu a b

/-- Branches complete whatever the offset: `pc + imm_B` modulo 2^32 if the comparison of the two registers holds, else `pc + 4`, and
nothing else changes. That the target is the ALU's `pc + imm_B` is the spec's inference (control table); that a taken branch completes
with a misaligned target too is its decision D12 (log entry 13), and the wrap its decision D19 (log entry 20). -/
def Obligations.BranchResult : Prop :=
  ∀ (s : State) (rs1 rs2 : Reg) (offset : BitVec 13) (taken : Word),
    taken = BitVec.ofInt 32 (s.pc.toNat + offset.toInt) →
    GoesTo (.beq rs1 rs2 offset) s (if s.readReg rs1 = s.readReg rs2 then taken else s.pc + 4#32) ∧
    GoesTo (.bne rs1 rs2 offset) s (if s.readReg rs1 ≠ s.readReg rs2 then taken else s.pc + 4#32) ∧
    GoesTo (.blt rs1 rs2 offset) s (if (s.readReg rs1).toInt < (s.readReg rs2).toInt then taken else s.pc + 4#32) ∧
    GoesTo (.bge rs1 rs2 offset) s (if (s.readReg rs1).toInt ≥ (s.readReg rs2).toInt then taken else s.pc + 4#32) ∧
    GoesTo (.bltu rs1 rs2 offset) s (if (s.readReg rs1).toNat < (s.readReg rs2).toNat then taken else s.pc + 4#32) ∧
    GoesTo (.bgeu rs1 rs2 offset) s (if (s.readReg rs1).toNat ≥ (s.readReg rs2).toNat then taken else s.pc + 4#32)

/-- JAL and JALR complete whatever the target: link `pc + 4`, go to `pc + imm_J`, or to the old `x[rs1]` plus `imm_I` with bit 0 kept
(the spec's decision D11, log entry 13). That a misaligned target completes too is its decision D12 (log entry 13), and the wrap its
decision D19 (log entry 20). -/
def Obligations.JumpResult : Prop :=
  ∀ (s : State) (rd rs1 : Reg) (offset : BitVec 21) (imm : BitVec 12),
    CompletesTo (.jal rd offset) s rd (s.pc + 4#32) (BitVec.ofInt 32 (s.pc.toNat + offset.toInt)) ∧
    CompletesTo (.jalr rd rs1 imm) s rd (s.pc + 4#32) (BitVec.ofInt 32 ((s.readReg rs1).toNat + imm.toInt))

/-- A misaligned program counter comes only from a branch or jump of an aligned one, and the next step reports it, keeping everything
(the spec's decision D12, log entry 13). -/
def Obligations.MisalignedTargetFaultsAtNextFetch : Prop :=
  ∀ s t : State, s.run = .running → step s = .next t → t.pc.toNat % 4 ≠ 0 →
    s.pc.toNat % 4 = 0 ∧ (∃ i, fetchInstr s = .ok i ∧ transfersControl i = true) ∧ t.run = .running ∧
    clock t = (.fault (.memoryAccess .fetch .misaligned t.pc .word t.pc), t)

/-! ## ECALL and the halt state machine -/

/-- ECALL completes: one EcallNotify with the pre-edge pc and registers, HaltPending, `pc + 4`, and nothing else. The payload is the
spec's decision D17 (log entry 6). -/
def Obligations.EcallResult : Prop :=
  ∀ s : State, ∃ t, exec .ecall s = .next t ∧ t.run = .haltPending ∧ t.pc = s.pc + 4#32 ∧
    t.trace = s.trace ++ [.ecallNotify s.pc s.regs] ∧ SameRegisters s t ∧ SameMemory s t ∧ t.cfg = s.cfg

/-- A step in Running on a word with the SYSTEM opcode commits HaltPending together with `pc + 4`; every other instruction leaves the
run state. That every such word, not only 0x00000073, runs as ECALL is the spec's decision D8 (log entry 8). -/
def Obligations.OnlyEcallLeavesRunning : Prop :=
  ∀ s : State, s.run = .running →
    (FetchAllowed s → opcodeOf (wordAtPc s) = 0b1110011#7 →
      ∃ t, step s = .next t ∧ t.run = .haltPending ∧ t.pc = s.pc + 4#32) ∧
    (∀ t, step s = .next t → opcodeOf (wordAtPc s) ≠ 0b1110011#7 → t.run = .running)

/-- A step in HaltPending runs nothing, sets Halted and emits Finished; a step in Halted changes nothing and returns Halted. The spec's
decisions D15 and D16 (log entries 14, 7). -/
def Obligations.HaltingSteps : Prop :=
  ∀ s : State,
    (s.run = .haltPending → clock s = (.ok, { s with run := .halted, trace := s.trace ++ [.finished] })) ∧
    (s.run = .halted → clock s = (.halted, s))

/-- R228: Finished is emitted once by each HaltPending-to-Halted transition and by nothing else: no other step, no fault, no Reset, no
Restore. -/
def Obligations.FinishedOncePerHalt : Prop :=
  ∀ s : State,
    (s.run = .haltPending → emitted s (clock s).2 = [.finished] ∧ (clock s).2.run = .halted) ∧
    (s.run ≠ .haltPending → .finished ∉ emitted s (clock s).2) ∧
    emitted s s.hostReset = [] ∧ ∀ p, emitted s (s.restore p) = []

/-- A step emits EcallNotify exactly when it commits an ECALL, once, with the pre-edge pc and registers. The payload is the spec's
decision D17 (log entry 6), and that every word of the SYSTEM opcode is ECALL its decision D8 (log entry 8). -/
def Obligations.NotificationsOfAStep : Prop :=
  ∀ s t : State, step s = .next t →
    t.trace = s.trace ++
      (if s.run = .running ∧ opcodeOf (wordAtPc s) = 0b1110011#7 then [.ecallNotify s.pc s.regs]
       else if s.run = .haltPending then [.finished] else [])

/-- From the fetch of an ECALL: two steps reach Halted with one EcallNotify and one Finished, and no further step changes anything
(the spec's decisions D15 and D16, log entries 14, 7). That every word of the SYSTEM opcode is ECALL is its decision D8 (log entry 8);
that the handler leaves registers and memory alone, and what it is told, is its decision D17 (log entry 6). -/
def Obligations.HaltSequence : Prop :=
  ∀ s : State, s.run = .running → FetchAllowed s → opcodeOf (wordAtPc s) = 0b1110011#7 →
    ∃ t, t.run = .halted ∧ t.pc = s.pc + 4#32 ∧ t.regs = s.regs ∧ t.mem = s.mem ∧ t.cfg = s.cfg ∧
      t.trace = s.trace ++ [.ecallNotify s.pc s.regs, .finished] ∧
      ∀ n, Sys2Proof.core.run (n + 2) s = .next t

/-! ## The step -/

/-- When the bytes at the program counter decode to an instruction and the fetch is allowed, a step in Running is that instruction's
exec, with nothing added. -/
def Obligations.StepRunsTheDecodedInstruction : Prop :=
  ∀ (s : State) (i : Instr), s.run = .running → FetchAllowed s →
    decode [s.mem.read s.pc.toNat, s.mem.read (s.pc.toNat + 1), s.mem.read (s.pc.toNat + 2), s.mem.read (s.pc.toNat + 3)]
      = .ok (i, []) →
    step s = exec i s

/-- Fetch faults: misaligned first, then out of range. The spec's decisions D5, D13 and D14 (log entries 12, 17). -/
def Obligations.FetchFaults : Prop :=
  ∀ s : State, s.run = .running →
    (s.pc.toNat % 4 ≠ 0 → step s = .fault (.memoryAccess .fetch .misaligned s.pc .word s.pc)) ∧
    (s.pc.toNat % 4 = 0 → ¬ BytesExist s s.pc.toNat 4 →
      step s = .fault (.memoryAccess .fetch .outOfRange s.pc .word s.pc))

/-- A step in Running raises IllegalInstruction exactly when the fetched word matches no row of the opcode table; for reserved minor
encodings this is the spec's decision D7 (log entry 9). -/
def Obligations.IllegalExactlyWhenNoRowMatches : Prop :=
  ∀ s : State, s.run = .running → FetchAllowed s →
    (step s = .fault (.illegalInstruction (wordAtPc s) s.pc) ↔ ∀ r ∈ opcodeTable, r.matchesWord (wordAtPc s) = false)

/-- R214: a step that faults leaves the program counter, every register, every memory byte and the run state, and emits nothing. -/
def Obligations.FaultCommitsNothing : Prop :=
  ∀ (s : State) (f : Fault), (clock s).1 = .fault f →
    (clock s).2.pc = s.pc ∧ SameRegisters s (clock s).2 ∧ SameMemory s (clock s).2 ∧ (clock s).2.run = s.run ∧
    emitted s (clock s).2 = []

/-- Stepping again after a fault gives the same fault and the same state for ever; the faulted state is never Halted. -/
def Obligations.FaultRepeatsForEver : Prop :=
  ∀ (s : State) (f : Fault), (clock s).1 = .fault f →
    s.run = .running ∧ ∀ n, clocked n s = s ∧ clock (clocked n s) = (.fault f, s)

/-- Every step ends with Ok, a fault, or Halted (spec/40_datapath.md section 5). That Halted is returned exactly in run state Halted is
the spec's decision D16 (log entry 7). -/
def Obligations.EveryStepEnds : Prop :=
  ∀ s : State, ((clock s).1 = .ok ∨ (clock s).1 = .halted ∨ ∃ f, (clock s).1 = .fault f) ∧
    ((clock s).1 = .halted ↔ s.run = .halted)

/-- The next program counter is the ALU result if the take-alternate decision is true, else `pc + 4`; a faulting cycle and a cycle in
HaltPending or Halted leave it; N cycles in Running with no taken branch, jump or fault give `p + 4N`. That a cycle in HaltPending or
Halted leaves it rests on the spec's decisions D15 and D16 (log entries 14, 7), and the wrap on its decision D19 (log entry 20). -/
def Obligations.ProgramCounterUpdate : Prop :=
  (∀ (s t : State) (c : ControlSignals), s.run = .running → step s = .next t → controlSignals (wordAtPc s) = some c →
    ∀ r1 r2 : Word, r1 = s.readReg (rs1Of (wordAtPc s)) → r2 = s.readReg (rs2Of (wordAtPc s)) →
    t.pc = if takeAlternate c r1 r2
      then alu c.aluOp (operand1 c s.pc r1) (operand2 c r2 (immediate (wordAtPc s)))
      else s.pc + 4#32) ∧
  (∀ (s : State) (f : Fault), (clock s).1 = .fault f → (clock s).2.pc = s.pc) ∧
  (∀ s : State, s.run ≠ .running → (clock s).2.pc = s.pc) ∧
  (∀ (n : Nat) (s : State), StraightLine n s →
    ∃ t, Sys2Proof.core.run n s = .next t ∧ t.pc = s.pc + BitVec.ofNat 32 (4 * n))

/-- What an instruction leaves unchanged when it completes: every register but its destination, every byte of memory outside its own
store, `pc + 4` unless it is a branch or jump, the run state and the notifications unless it is ECALL, and the configuration always.
That ECALL leaves registers and memory, whatever its handler does, is the spec's decision D17 (log entry 6). -/
def Obligations.InstructionFrame : Prop :=
  ∀ (i : Instr) (s t : State), exec i s = .next t →
    (∀ r : Reg, destination i ≠ some r → t.readReg r = s.readReg r) ∧
    (∀ b : Nat, (∀ a w, dataAccess s i = some (.store, a, w) → b < a.toNat ∨ a.toNat + w.bytes ≤ b) →
      t.mem.read b = s.mem.read b) ∧
    (transfersControl i = false → t.pc = s.pc + 4#32) ∧
    (i ≠ .ecall → t.run = s.run ∧ t.trace = s.trace) ∧ t.cfg = s.cfg

/-- Only a data access can stop an instruction: one that makes none, or whose access is aligned and in range, completes; and a fault
of an instruction is the fault of its own access. Alignment, the reason reported and the fault's name and payload are the spec's
decisions D5, D13 and D14 (log entries 12, 17); that a branch or jump to a misaligned target completes is its decision D12
(log entry 13). -/
def Obligations.OnlyDataAccessesFault : Prop :=
  ∀ (i : Instr) (s : State),
    ((∀ k a w, dataAccess s i = some (k, a, w) → a.toNat % w.bytes = 0 ∧ BytesExist s a.toNat w.bytes) →
      ∃ t, exec i s = .next t) ∧
    (∀ f, exec i s = .fault f → ∃ k r a w, dataAccess s i = some (k, a, w) ∧ f = .memoryAccess k r a w s.pc ∧
      (r = .misaligned ↔ a.toNat % w.bytes ≠ 0))

/-- Notifications are outputs, not state: what was emitted before changes neither what a step does nor what it emits. Holding them in
State is the model's choice (log entry 5). -/
def Obligations.TraceNeverFeedsBack : Prop :=
  ∀ (s : State) (past : List Notification),
    (∀ t, step s = .next t → step { s with trace := past } = .next { t with trace := past ++ emitted s t }) ∧
    (∀ f, step s = .fault f → step { s with trace := past } = .fault f)

/-- The per-instruction meanings are the datapath: the step equals the clock step of spec/40_datapath.md written out signal by
signal, in every state. -/
def Obligations.StepEqualsDatapath : Prop := ∀ s : State, step s = datapathStep s

/-! ## Capture and restore -/

/-- Restore sets pc, registers, memory and run state to the captured ones and emits nothing, and from then on every step is what it
was after the capture: the state, the result of the next step, and the notifications emitted since, those of an ECALL that runs again
among them. That the snapshot holds all three run states is the spec's decision D18 (log entry 18). -/
def Obligations.RestoreRewinds : Prop :=
  ∀ s u : State, u.cfg = s.cfg →
    s.restore s.capture = s ∧ AgreeButTrace s (u.restore s.capture) ∧ (u.restore s.capture).trace = u.trace ∧
    ∀ n, AgreeButTrace (clocked n s) (clocked n (u.restore s.capture)) ∧
      (clocked n (u.restore s.capture)).trace = u.trace ++ emitted s (clocked n s) ∧
      (clock (clocked n (u.restore s.capture))).1 = (clock (clocked n s)).1

/-! ## Decoding -/

/-- Decoding is the inverse of encoding: every well-formed instruction, with every operand at every value its fields admit, is what
the decoder reads from its own word. -/
def Obligations.DecodeInvertsEncode : Prop :=
  ∀ i : Instr, i.wf = true → decodeWord (encode i) = .ok i

/-- What the decoder reads is well-formed, and encodes to the word it was read from, except that ECALL encodes to the canonical word. -/
def Obligations.EncodeInvertsDecode : Prop :=
  ∀ (w : Word) (i : Instr), decodeWord w = .ok i → i.wf = true ∧ (i ≠ .ecall → encode i = w)

/-- The decoder agrees with the opcode table: it reads an instruction of a name exactly when the row of that name is the one the word
matches, and rejects exactly the words that match none. -/
def Obligations.DecoderAgreesWithOpcodeTable : Prop :=
  ∀ w : Word,
    (match decodeWord w with | .ok i => some i.mnemonic | .error _ => none)
      = (opcodeTable.find? fun r => r.matchesWord w).map (·.mnemonic)

/-- The rows of the opcode table are pairwise disjoint: no word matches two. -/
def Obligations.OpcodeTableRowsAreDisjoint : Prop :=
  opcodeTable.length = 46 ∧
  ∀ (w : Word), ∀ r ∈ opcodeTable, ∀ q ∈ opcodeTable, r.matchesWord w = true → q.matchesWord w = true → r = q

/-- R65 to R70: each bit of the five immediates is the stated bit of the instruction word, the upper bits copies of bit 31; the
ranges are the stated ones and the branch and JAL offsets are even. -/
def Obligations.ImmediateBits : Prop :=
  ∀ w : Word,
    (∀ k, k < 32 →
      (immI (immIOf w)).getLsbD k = w.getLsbD (if k < 11 then k + 20 else 31) ∧
      (immS (immSOf w)).getLsbD k = w.getLsbD (if k < 5 then k + 7 else if k < 11 then k + 20 else 31) ∧
      (immB (immBOf w)).getLsbD k
        = (if k = 0 then false else w.getLsbD (if k < 5 then k + 7 else if k < 11 then k + 20 else if k = 11 then 7 else 31)) ∧
      (immU (immUOf w)).getLsbD k = (if k < 12 then false else w.getLsbD k) ∧
      (immJ (immJOf w)).getLsbD k
        = (if k = 0 then false
           else w.getLsbD (if k < 11 then k + 20 else if k = 11 then 20 else if k < 20 then k else 31))) ∧
    (-2048 ≤ (immI (immIOf w)).toInt ∧ (immI (immIOf w)).toInt ≤ 2047) ∧
    (-2048 ≤ (immS (immSOf w)).toInt ∧ (immS (immSOf w)).toInt ≤ 2047) ∧
    (-4096 ≤ (immB (immBOf w)).toInt ∧ (immB (immBOf w)).toInt ≤ 4094 ∧ (immB (immBOf w)).toInt % 2 = 0) ∧
    (-1048576 ≤ (immJ (immJOf w)).toInt ∧ (immJ (immJOf w)).toInt ≤ 1048574 ∧ (immJ (immJOf w)).toInt % 2 = 0)

/-- Words the spec writes out, one or more of every class, decode to the instructions it gives them. -/
def Obligations.SpecWordsDecode : Prop :=
  decodeWord 0x402081B3#32 = .ok (.sub 3 1 2) ∧ decodeWord 0x0220A1B3#32 = .ok (.mulhsu 3 1 2) ∧
  decodeWord 0xFFF10113#32 = .ok (.addi 2 2 (-1)) ∧ decodeWord 0x41F0D193#32 = .ok (.srai 3 1 31) ∧
  decodeWord 0xF0012183#32 = .ok (.lw 3 2 (-256)) ∧ decodeWord 0xFE532E23#32 = .ok (.sw 5 6 (-4)) ∧
  decodeWord 0xFE011CE3#32 = .ok (.bne 2 0 (-8)) ∧ decodeWord 0xFF1FF06F#32 = .ok (.jal 0 (-16)) ∧
  decodeWord 0xFFF280E7#32 = .ok (.jalr 1 5 (-1)) ∧ decodeWord 0xDEADC2B7#32 = .ok (.lui 5 0xDEADC) ∧
  decodeWord 0xFFFFF297#32 = .ok (.auipc 5 0xFFFFF) ∧ decodeWord 0x00000073#32 = .ok .ecall

/-- An instruction word placed for the next step is run by it, whatever the state was: the meaning of `withFetchWord` (log entry 15). -/
def Obligations.PlacedInstructionRuns : Prop :=
  ∀ (s : State) (w : Word),
    step (s.withFetchWord 32 w.toNat) = match decodeWord w with
      | .ok i => exec i (s.withFetchWord 32 w.toNat)
      | .error _ => .fault (.illegalInstruction w (s.withFetchWord 32 w.toNat).pc)
end

