-- ==== Sys2Proof/Laws/Fields.lean ====
section
/-!
SUPPORT. Fields and encodings as numbers: every field of a word is a quotient and remainder of it, every encoding is a sum of its
pieces, so that what the decoder reads back from an encoded instruction is linear arithmetic.
-/

namespace Sys2Proof

theorem toNat_append_eq {m n : Nat} (x : BitVec m) (y : BitVec n) : (x ++ y).toNat = x.toNat * 2 ^ n + y.toNat := by
  rw [BitVec.toNat_append, ← Nat.shiftLeft_add_eq_or_of_lt y.isLt, Nat.shiftLeft_eq]

theorem toNat_extractLsb'_eq {n : Nat} (x : BitVec n) (start len : Nat) :
    (x.extractLsb' start len).toNat = x.toNat / 2 ^ start % 2 ^ len := by
  rw [BitVec.extractLsb'_toNat, Nat.shiftRight_eq_div_pow]

/-! ## Registers as fields -/

@[simp] theorem regOf_regBits (r : Reg) : regOf (regBits r) = r := rfl
@[simp] theorem regBits_regOf (b : BitVec 5) : regBits (regOf b) = b := rfl
@[simp] theorem regBits_toNat (r : Reg) : (regBits r).toNat = r.val := rfl
@[simp] theorem regOf_val (b : BitVec 5) : (regOf b).val = b.toNat := rfl

/-! ## The fields of a word (R61, R66 to R71) -/

theorem opcodeOf_toNat (w : Word) : (opcodeOf w).toNat = w.toNat % 2 ^ 7 := by
  simp [opcodeOf]
theorem funct3Of_toNat (w : Word) : (funct3Of w).toNat = w.toNat / 2 ^ 12 % 2 ^ 3 := toNat_extractLsb'_eq ..
theorem funct7Of_toNat (w : Word) : (funct7Of w).toNat = w.toNat / 2 ^ 25 % 2 ^ 7 := toNat_extractLsb'_eq ..
theorem rdOf_val (w : Word) : (rdOf w).val = w.toNat / 2 ^ 7 % 2 ^ 5 := toNat_extractLsb'_eq ..
theorem rs1Of_val (w : Word) : (rs1Of w).val = w.toNat / 2 ^ 15 % 2 ^ 5 := toNat_extractLsb'_eq ..
theorem rs2Of_val (w : Word) : (rs2Of w).val = w.toNat / 2 ^ 20 % 2 ^ 5 := toNat_extractLsb'_eq ..
theorem shamtOf_toNat (w : Word) : (shamtOf w).toNat = w.toNat / 2 ^ 20 % 2 ^ 5 := toNat_extractLsb'_eq ..
theorem immIOf_toNat (w : Word) : (immIOf w).toNat = w.toNat / 2 ^ 20 % 2 ^ 12 := toNat_extractLsb'_eq ..
theorem immUOf_toNat (w : Word) : (immUOf w).toNat = w.toNat / 2 ^ 12 % 2 ^ 20 := toNat_extractLsb'_eq ..
theorem immSOf_toNat (w : Word) :
    (immSOf w).toNat = w.toNat / 2 ^ 25 % 2 ^ 7 * 2 ^ 5 + w.toNat / 2 ^ 7 % 2 ^ 5 := by
  simp only [immSOf, toNat_append_eq, toNat_extractLsb'_eq]
theorem immBOf_toNat (w : Word) :
    (immBOf w).toNat = w.toNat / 2 ^ 31 % 2 * 2 ^ 12 + w.toNat / 2 ^ 7 % 2 * 2 ^ 11 + w.toNat / 2 ^ 25 % 2 ^ 6 * 2 ^ 5
      + w.toNat / 2 ^ 8 % 2 ^ 4 * 2 := by
  simp only [immBOf, toNat_append_eq, toNat_extractLsb'_eq, BitVec.toNat_ofNat]
  omega
theorem immJOf_toNat (w : Word) :
    (immJOf w).toNat = w.toNat / 2 ^ 31 % 2 * 2 ^ 20 + w.toNat / 2 ^ 12 % 2 ^ 8 * 2 ^ 12 + w.toNat / 2 ^ 20 % 2 * 2 ^ 11
      + w.toNat / 2 ^ 21 % 2 ^ 10 * 2 := by
  simp only [immJOf, toNat_append_eq, toNat_extractLsb'_eq, BitVec.toNat_ofNat]
  omega

theorem evenOffset_iff {n : Nat} (x : BitVec n) : evenOffset x = true ↔ x.toNat % 2 = 0 := by
  simp only [evenOffset, BitVec.getLsbD, Nat.testBit_zero, Bool.not_eq_true', decide_eq_false_iff_not]
  omega

/-- The decoder's branch and JAL offsets are even (R68, R70). -/
theorem evenOffset_immBOf (w : Word) : evenOffset (immBOf w) = true := by
  rw [evenOffset_iff, immBOf_toNat]; omega
theorem evenOffset_immJOf (w : Word) : evenOffset (immJOf w) = true := by
  rw [evenOffset_iff, immJOf_toNat]; omega

/-! ## The encodings (R62) -/

theorem encodeR_toNat (f7 : BitVec 7) (rs2 rs1 : Reg) (f3 : BitVec 3) (rd : Reg) (op : BitVec 7) :
    (encodeR f7 rs2 rs1 f3 rd op).toNat = f7.toNat * 2 ^ 25 + rs2.val * 2 ^ 20 + rs1.val * 2 ^ 15 + f3.toNat * 2 ^ 12
      + rd.val * 2 ^ 7 + op.toNat := by
  simp only [encodeR, toNat_append_eq, regBits_toNat]; omega
theorem encodeI_toNat (imm : BitVec 12) (rs1 : Reg) (f3 : BitVec 3) (rd : Reg) (op : BitVec 7) :
    (encodeI imm rs1 f3 rd op).toNat = imm.toNat * 2 ^ 20 + rs1.val * 2 ^ 15 + f3.toNat * 2 ^ 12 + rd.val * 2 ^ 7
      + op.toNat := by
  simp only [encodeI, toNat_append_eq, regBits_toNat]; omega
theorem encodeShift_toNat (f7 : BitVec 7) (shamt : BitVec 5) (rs1 : Reg) (f3 : BitVec 3) (rd : Reg) (op : BitVec 7) :
    (encodeShift f7 shamt rs1 f3 rd op).toNat = f7.toNat * 2 ^ 25 + shamt.toNat * 2 ^ 20 + rs1.val * 2 ^ 15
      + f3.toNat * 2 ^ 12 + rd.val * 2 ^ 7 + op.toNat := by
  simp only [encodeShift, toNat_append_eq, regBits_toNat]; omega
theorem encodeS_toNat (imm : BitVec 12) (rs2 rs1 : Reg) (f3 : BitVec 3) (op : BitVec 7) :
    (encodeS imm rs2 rs1 f3 op).toNat = imm.toNat / 2 ^ 5 % 2 ^ 7 * 2 ^ 25 + rs2.val * 2 ^ 20 + rs1.val * 2 ^ 15
      + f3.toNat * 2 ^ 12 + imm.toNat % 2 ^ 5 * 2 ^ 7 + op.toNat := by
  simp only [encodeS, toNat_append_eq, toNat_extractLsb'_eq, regBits_toNat]; omega
theorem encodeB_toNat (imm : BitVec 13) (rs2 rs1 : Reg) (f3 : BitVec 3) (op : BitVec 7) :
    (encodeB imm rs2 rs1 f3 op).toNat = imm.toNat / 2 ^ 12 % 2 * 2 ^ 31 + imm.toNat / 2 ^ 5 % 2 ^ 6 * 2 ^ 25
      + rs2.val * 2 ^ 20 + rs1.val * 2 ^ 15 + f3.toNat * 2 ^ 12 + imm.toNat / 2 % 2 ^ 4 * 2 ^ 8
      + imm.toNat / 2 ^ 11 % 2 * 2 ^ 7 + op.toNat := by
  simp only [encodeB, toNat_append_eq, toNat_extractLsb'_eq, regBits_toNat]; omega
theorem encodeU_toNat (imm20 : BitVec 20) (rd : Reg) (op : BitVec 7) :
    (encodeU imm20 rd op).toNat = imm20.toNat * 2 ^ 12 + rd.val * 2 ^ 7 + op.toNat := by
  simp only [encodeU, toNat_append_eq, regBits_toNat]; omega
theorem encodeJ_toNat (imm : BitVec 21) (rd : Reg) (op : BitVec 7) :
    (encodeJ imm rd op).toNat = imm.toNat / 2 ^ 20 % 2 * 2 ^ 31 + imm.toNat / 2 % 2 ^ 10 * 2 ^ 21
      + imm.toNat / 2 ^ 11 % 2 * 2 ^ 20 + imm.toNat / 2 ^ 12 % 2 ^ 8 * 2 ^ 12 + rd.val * 2 ^ 7 + op.toNat := by
  simp only [encodeJ, toNat_append_eq, toNat_extractLsb'_eq, regBits_toNat]; omega

/-! ## Bytes and words (R42) -/

theorem wordOfBytes_toNat (b0 b1 b2 b3 : Byte) :
    (wordOfBytes b0 b1 b2 b3).toNat = b0.toNat + b1.toNat * 2 ^ 8 + b2.toNat * 2 ^ 16 + b3.toNat * 2 ^ 24 := by
  simp only [wordOfBytes, toNat_append_eq]; omega

/-- The decoder on the bytes of a word reads that word. -/
theorem decode_bytesOfWord (w : Word) (rest : List Byte) :
    decode (bytesOfWord w ++ rest)
      = match decodeWord w with
        | .ok i => .ok (i, rest)
        | .error e => .error e := by
  have h : wordOfBytes (w.extractLsb' 0 8) (w.extractLsb' 8 8) (w.extractLsb' 16 8) (w.extractLsb' 24 8) = w := by
    apply BitVec.eq_of_toNat_eq
    simp only [wordOfBytes_toNat, toNat_extractLsb'_eq]
    have := w.isLt
    omega
  cases hd : decodeWord w <;> simp only [bytesOfWord, List.cons_append, List.nil_append, decode, h, hd]

/-! ## Masks: what a row of the opcode table says of a word's fields (R74) -/

theorem extractLsb'_and_eq {n : Nat} (x y : BitVec n) (start len : Nat) :
    (x &&& y).extractLsb' start len = x.extractLsb' start len &&& y.extractLsb' start len := by
  ext i hi; simp [BitVec.getLsbD_and]

/-- A masked word's opcode, where the mask covers it. -/
theorem opcodeOf_of_masked {w mask pattern : Word} (h : w &&& mask = pattern) (hm : opcodeOf mask = BitVec.allOnes 7) :
    opcodeOf w = opcodeOf pattern := by
  rw [← h]; unfold opcodeOf at *; rw [extractLsb'_and_eq, hm, BitVec.and_allOnes]
theorem funct3Of_of_masked {w mask pattern : Word} (h : w &&& mask = pattern) (hm : funct3Of mask = BitVec.allOnes 3) :
    funct3Of w = funct3Of pattern := by
  rw [← h]; unfold funct3Of at *; rw [extractLsb'_and_eq, hm, BitVec.and_allOnes]
theorem funct7Of_of_masked {w mask pattern : Word} (h : w &&& mask = pattern) (hm : funct7Of mask = BitVec.allOnes 7) :
    funct7Of w = funct7Of pattern := by
  rw [← h]; unfold funct7Of at *; rw [extractLsb'_and_eq, hm, BitVec.and_allOnes]

/-! ## The fields of an encoded word -/

section
variable (f7 : BitVec 7) (rs2 rs1 rd : Reg) (f3 : BitVec 3) (op : BitVec 7)

@[simp] theorem opcodeOf_encodeR : opcodeOf (encodeR f7 rs2 rs1 f3 rd op) = op := by
  apply BitVec.eq_of_toNat_eq; rw [opcodeOf_toNat, encodeR_toNat]; omega
@[simp] theorem funct3Of_encodeR : funct3Of (encodeR f7 rs2 rs1 f3 rd op) = f3 := by
  apply BitVec.eq_of_toNat_eq; rw [funct3Of_toNat, encodeR_toNat]; omega
@[simp] theorem funct7Of_encodeR : funct7Of (encodeR f7 rs2 rs1 f3 rd op) = f7 := by
  apply BitVec.eq_of_toNat_eq; rw [funct7Of_toNat, encodeR_toNat]; omega

@[simp] theorem opcodeOf_encodeI (imm : BitVec 12) : opcodeOf (encodeI imm rs1 f3 rd op) = op := by
  apply BitVec.eq_of_toNat_eq; rw [opcodeOf_toNat, encodeI_toNat]; omega
@[simp] theorem funct3Of_encodeI (imm : BitVec 12) : funct3Of (encodeI imm rs1 f3 rd op) = f3 := by
  apply BitVec.eq_of_toNat_eq; rw [funct3Of_toNat, encodeI_toNat]; omega

@[simp] theorem opcodeOf_encodeShift (shamt : BitVec 5) : opcodeOf (encodeShift f7 shamt rs1 f3 rd op) = op := by
  apply BitVec.eq_of_toNat_eq; rw [opcodeOf_toNat, encodeShift_toNat]; omega
@[simp] theorem funct3Of_encodeShift (shamt : BitVec 5) : funct3Of (encodeShift f7 shamt rs1 f3 rd op) = f3 := by
  apply BitVec.eq_of_toNat_eq; rw [funct3Of_toNat, encodeShift_toNat]; omega
@[simp] theorem funct7Of_encodeShift (shamt : BitVec 5) : funct7Of (encodeShift f7 shamt rs1 f3 rd op) = f7 := by
  apply BitVec.eq_of_toNat_eq; rw [funct7Of_toNat, encodeShift_toNat]; omega

@[simp] theorem opcodeOf_encodeS (imm : BitVec 12) : opcodeOf (encodeS imm rs2 rs1 f3 op) = op := by
  apply BitVec.eq_of_toNat_eq; rw [opcodeOf_toNat, encodeS_toNat]; omega
@[simp] theorem funct3Of_encodeS (imm : BitVec 12) : funct3Of (encodeS imm rs2 rs1 f3 op) = f3 := by
  apply BitVec.eq_of_toNat_eq; rw [funct3Of_toNat, encodeS_toNat]; omega

@[simp] theorem opcodeOf_encodeB (imm : BitVec 13) : opcodeOf (encodeB imm rs2 rs1 f3 op) = op := by
  apply BitVec.eq_of_toNat_eq; rw [opcodeOf_toNat, encodeB_toNat]; omega
@[simp] theorem funct3Of_encodeB (imm : BitVec 13) : funct3Of (encodeB imm rs2 rs1 f3 op) = f3 := by
  apply BitVec.eq_of_toNat_eq; rw [funct3Of_toNat, encodeB_toNat]
  have h1 : imm.toNat / 2 % 2 ^ 4 < 2 ^ 4 := Nat.mod_lt _ (by decide)
  have h2 : imm.toNat / 2 ^ 11 % 2 < 2 := Nat.mod_lt _ (by decide)
  generalize imm.toNat / 2 % 2 ^ 4 = x at *
  generalize imm.toNat / 2 ^ 11 % 2 = y at *
  generalize imm.toNat / 2 ^ 5 % 2 ^ 6 = z
  generalize imm.toNat / 2 ^ 12 % 2 = u
  omega

@[simp] theorem opcodeOf_encodeU (imm : BitVec 20) : opcodeOf (encodeU imm rd op) = op := by
  apply BitVec.eq_of_toNat_eq; rw [opcodeOf_toNat, encodeU_toNat]; omega
@[simp] theorem opcodeOf_encodeJ (imm : BitVec 21) : opcodeOf (encodeJ imm rd op) = op := by
  apply BitVec.eq_of_toNat_eq; rw [opcodeOf_toNat, encodeJ_toNat]; omega

end

/-! ## The operands of an encoded word -/

section
variable (f7 : BitVec 7) (rs2 rs1 rd : Reg) (f3 : BitVec 3) (op : BitVec 7)

@[simp] theorem rdOf_encodeR : rdOf (encodeR f7 rs2 rs1 f3 rd op) = rd := by
  apply Fin.ext; rw [rdOf_val, encodeR_toNat]; omega
@[simp] theorem rs1Of_encodeR : rs1Of (encodeR f7 rs2 rs1 f3 rd op) = rs1 := by
  apply Fin.ext; rw [rs1Of_val, encodeR_toNat]; omega
@[simp] theorem rs2Of_encodeR : rs2Of (encodeR f7 rs2 rs1 f3 rd op) = rs2 := by
  apply Fin.ext; rw [rs2Of_val, encodeR_toNat]; omega
@[simp] theorem rdOf_encodeI (imm : BitVec 12) : rdOf (encodeI imm rs1 f3 rd op) = rd := by
  apply Fin.ext; rw [rdOf_val, encodeI_toNat]; omega
@[simp] theorem rs1Of_encodeI (imm : BitVec 12) : rs1Of (encodeI imm rs1 f3 rd op) = rs1 := by
  apply Fin.ext; rw [rs1Of_val, encodeI_toNat]; omega
@[simp] theorem immIOf_encodeI (imm : BitVec 12) : immIOf (encodeI imm rs1 f3 rd op) = imm := by
  apply BitVec.eq_of_toNat_eq; rw [immIOf_toNat, encodeI_toNat]; omega
@[simp] theorem rdOf_encodeShift (shamt : BitVec 5) : rdOf (encodeShift f7 shamt rs1 f3 rd op) = rd := by
  apply Fin.ext; rw [rdOf_val, encodeShift_toNat]; omega
@[simp] theorem rs1Of_encodeShift (shamt : BitVec 5) : rs1Of (encodeShift f7 shamt rs1 f3 rd op) = rs1 := by
  apply Fin.ext; rw [rs1Of_val, encodeShift_toNat]; omega
@[simp] theorem shamtOf_encodeShift (shamt : BitVec 5) : shamtOf (encodeShift f7 shamt rs1 f3 rd op) = shamt := by
  apply BitVec.eq_of_toNat_eq; rw [shamtOf_toNat, encodeShift_toNat]; omega
@[simp] theorem rs1Of_encodeS (imm : BitVec 12) : rs1Of (encodeS imm rs2 rs1 f3 op) = rs1 := by
  show regOf _ = regOf (regBits rs1)
  congr 1
  apply BitVec.eq_of_getLsbD_eq
  intro i hi
  simp only [encodeS, BitVec.getLsbD_append, BitVec.getLsbD_extractLsb']
  interval_cases i <;> simp only [Nat.reduceAdd, Nat.reduceLT, Nat.reduceSub, decide_true, Bool.true_and, ↓reduceIte]
@[simp] theorem rs2Of_encodeS (imm : BitVec 12) : rs2Of (encodeS imm rs2 rs1 f3 op) = rs2 := by
  show regOf _ = regOf (regBits rs2)
  congr 1
  apply BitVec.eq_of_getLsbD_eq
  intro i hi
  simp only [encodeS, BitVec.getLsbD_append, BitVec.getLsbD_extractLsb']
  interval_cases i <;> simp only [Nat.reduceAdd, Nat.reduceLT, Nat.reduceSub, decide_true, Bool.true_and, ↓reduceIte]
@[simp] theorem rs1Of_encodeB (imm : BitVec 13) : rs1Of (encodeB imm rs2 rs1 f3 op) = rs1 := by
  show regOf _ = regOf (regBits rs1)
  congr 1
  apply BitVec.eq_of_getLsbD_eq
  intro i hi
  simp only [encodeB, BitVec.getLsbD_append, BitVec.getLsbD_extractLsb']
  interval_cases i <;> simp only [Nat.reduceAdd, Nat.reduceLT, Nat.reduceSub, decide_true, Bool.true_and, ↓reduceIte]
@[simp] theorem rs2Of_encodeB (imm : BitVec 13) : rs2Of (encodeB imm rs2 rs1 f3 op) = rs2 := by
  show regOf _ = regOf (regBits rs2)
  congr 1
  apply BitVec.eq_of_getLsbD_eq
  intro i hi
  simp only [encodeB, BitVec.getLsbD_append, BitVec.getLsbD_extractLsb']
  interval_cases i <;> simp only [Nat.reduceAdd, Nat.reduceLT, Nat.reduceSub, decide_true, Bool.true_and, ↓reduceIte]
@[simp] theorem immSOf_encodeS (imm : BitVec 12) : immSOf (encodeS imm rs2 rs1 f3 op) = imm := by
  apply BitVec.eq_of_getLsbD_eq
  intro i hi
  simp only [immSOf, encodeS, BitVec.getLsbD_append, BitVec.getLsbD_extractLsb']
  interval_cases i <;> simp only [Nat.reduceAdd, Nat.reduceLT, Nat.reduceSub, decide_true, Bool.true_and, ↓reduceIte]
theorem immBOf_encodeB (imm : BitVec 13) (h : evenOffset imm = true) : immBOf (encodeB imm rs2 rs1 f3 op) = imm := by
  have h0 : imm[0] = false := by simpa [evenOffset] using h
  apply BitVec.eq_of_getLsbD_eq
  intro i hi
  simp only [immBOf, encodeB, BitVec.getLsbD_append, BitVec.getLsbD_extractLsb']
  interval_cases i <;> simp only [Nat.reduceAdd, Nat.reduceLT, Nat.reduceSub, decide_true, Bool.true_and, ↓reduceIte]; simp [h0]
@[simp] theorem rdOf_encodeU (imm : BitVec 20) : rdOf (encodeU imm rd op) = rd := by
  apply Fin.ext; rw [rdOf_val, encodeU_toNat]; omega
@[simp] theorem immUOf_encodeU (imm : BitVec 20) : immUOf (encodeU imm rd op) = imm := by
  apply BitVec.eq_of_toNat_eq; rw [immUOf_toNat, encodeU_toNat]; omega
@[simp] theorem rdOf_encodeJ (imm : BitVec 21) : rdOf (encodeJ imm rd op) = rd := by
  show regOf _ = regOf (regBits rd)
  congr 1
  apply BitVec.eq_of_getLsbD_eq
  intro i hi
  simp only [encodeJ, BitVec.getLsbD_append, BitVec.getLsbD_extractLsb']
  interval_cases i <;> simp only [Nat.reduceAdd, Nat.reduceLT, Nat.reduceSub, decide_true, Bool.true_and, ↓reduceIte]
theorem immJOf_encodeJ (imm : BitVec 21) (h : evenOffset imm = true) : immJOf (encodeJ imm rd op) = imm := by
  have h0 : imm[0] = false := by simpa [evenOffset] using h
  apply BitVec.eq_of_getLsbD_eq
  intro i hi
  simp only [immJOf, encodeJ, BitVec.getLsbD_append, BitVec.getLsbD_extractLsb']
  interval_cases i <;> simp only [Nat.reduceAdd, Nat.reduceLT, Nat.reduceSub, decide_true, Bool.true_and, ↓reduceIte]; simp [h0]

end

/-! ## A word is the encoding of its own fields -/

theorem encodeR_fields (w : Word) :
    encodeR (funct7Of w) (rs2Of w) (rs1Of w) (funct3Of w) (rdOf w) (opcodeOf w) = w := by
  apply BitVec.eq_of_getLsbD_eq
  intro i hi
  simp only [encodeR, rdOf, rs1Of, rs2Of, funct3Of, funct7Of, opcodeOf, regBits_regOf, BitVec.getLsbD_append, BitVec.getLsbD_extractLsb']
  interval_cases i <;> simp only [Nat.reduceAdd, Nat.reduceLT, Nat.reduceSub, decide_true, Bool.true_and, ↓reduceIte]
theorem encodeI_fields (w : Word) :
    encodeI (immIOf w) (rs1Of w) (funct3Of w) (rdOf w) (opcodeOf w) = w := by
  apply BitVec.eq_of_getLsbD_eq
  intro i hi
  simp only [encodeI, immIOf, rdOf, rs1Of, funct3Of, opcodeOf, regBits_regOf, BitVec.getLsbD_append, BitVec.getLsbD_extractLsb']
  interval_cases i <;> simp only [Nat.reduceAdd, Nat.reduceLT, Nat.reduceSub, decide_true, Bool.true_and, ↓reduceIte]
theorem encodeShift_fields (w : Word) :
    encodeShift (funct7Of w) (shamtOf w) (rs1Of w) (funct3Of w) (rdOf w) (opcodeOf w) = w := by
  apply BitVec.eq_of_getLsbD_eq
  intro i hi
  simp only [encodeShift, shamtOf, rdOf, rs1Of, funct3Of, funct7Of, opcodeOf, regBits_regOf, BitVec.getLsbD_append, BitVec.getLsbD_extractLsb']
  interval_cases i <;> simp only [Nat.reduceAdd, Nat.reduceLT, Nat.reduceSub, decide_true, Bool.true_and, ↓reduceIte]
theorem encodeS_fields (w : Word) :
    encodeS (immSOf w) (rs2Of w) (rs1Of w) (funct3Of w) (opcodeOf w) = w := by
  apply BitVec.eq_of_getLsbD_eq
  intro i hi
  simp only [encodeS, immSOf, rs1Of, rs2Of, funct3Of, opcodeOf, regBits_regOf, BitVec.getLsbD_append, BitVec.getLsbD_extractLsb']
  interval_cases i <;> simp only [Nat.reduceAdd, Nat.reduceLT, Nat.reduceSub, decide_true, Bool.true_and, ↓reduceIte]
theorem encodeB_fields (w : Word) :
    encodeB (immBOf w) (rs2Of w) (rs1Of w) (funct3Of w) (opcodeOf w) = w := by
  apply BitVec.eq_of_getLsbD_eq
  intro i hi
  simp only [encodeB, immBOf, rs1Of, rs2Of, funct3Of, opcodeOf, regBits_regOf, BitVec.getLsbD_append, BitVec.getLsbD_extractLsb']
  interval_cases i <;> simp only [Nat.reduceAdd, Nat.reduceLT, Nat.reduceSub, decide_true, Bool.true_and, ↓reduceIte]
theorem encodeU_fields (w : Word) :
    encodeU (immUOf w) (rdOf w) (opcodeOf w) = w := by
  apply BitVec.eq_of_getLsbD_eq
  intro i hi
  simp only [encodeU, immUOf, rdOf, opcodeOf, regBits_regOf, BitVec.getLsbD_append, BitVec.getLsbD_extractLsb']
  interval_cases i <;> simp only [Nat.reduceAdd, Nat.reduceLT, Nat.reduceSub, decide_true, Bool.true_and, ↓reduceIte]
theorem encodeJ_fields (w : Word) :
    encodeJ (immJOf w) (rdOf w) (opcodeOf w) = w := by
  apply BitVec.eq_of_getLsbD_eq
  intro i hi
  simp only [encodeJ, immJOf, rdOf, opcodeOf, regBits_regOf, BitVec.getLsbD_append, BitVec.getLsbD_extractLsb']
  interval_cases i <;> simp only [Nat.reduceAdd, Nat.reduceLT, Nat.reduceSub, decide_true, Bool.true_and, ↓reduceIte]

/-! ## The three masks of the opcode table as fields (R74) -/

theorem and_mask_opcode (w : Word) : w &&& 0x0000007F#32 = 0#25 ++ opcodeOf w := by
  apply BitVec.eq_of_getLsbD_eq
  intro i hi
  simp only [opcodeOf, BitVec.getLsbD_and, BitVec.getLsbD_append, BitVec.getLsbD_extractLsb']
  interval_cases i <;> simp

theorem and_mask_funct3 (w : Word) : w &&& 0x0000707F#32 = 0#17 ++ funct3Of w ++ 0#5 ++ opcodeOf w := by
  apply BitVec.eq_of_getLsbD_eq
  intro i hi
  simp only [opcodeOf, funct3Of, BitVec.getLsbD_and, BitVec.getLsbD_append, BitVec.getLsbD_extractLsb']
  interval_cases i <;> simp

theorem and_mask_funct7 (w : Word) :
    w &&& 0xFE00707F#32 = funct7Of w ++ 0#10 ++ funct3Of w ++ 0#5 ++ opcodeOf w := by
  apply BitVec.eq_of_getLsbD_eq
  intro i hi
  simp only [opcodeOf, funct3Of, funct7Of, BitVec.getLsbD_and, BitVec.getLsbD_append, BitVec.getLsbD_extractLsb']
  interval_cases i <;> simp

end Sys2Proof
end

