-- ==== Sys2Proof/Laws/Decode.lean ====
section
/-!
SUPPORT. The decoder, said once: which fields make a word which instruction, a case principle for what it reads, and what it rejects
(spec/30_encoding.md rules R72 to R78). Proofs about decoding cite these and never unfold the decoder.
-/

namespace Sys2Proof

variable {w : Word}

/-! ## By opcode -/

theorem decodeWord_of_loadClass (h : opcodeOf w = 0x03#7) : decodeWord w = decodeLoad w := by
  simp [decodeWord, h]
theorem decodeWord_of_opImmClass (h : opcodeOf w = 0x13#7) : decodeWord w = decodeOpImm w := by
  simp [decodeWord, h]
theorem decodeWord_of_auipc (h : opcodeOf w = 0x17#7) : decodeWord w = .ok (.auipc (rdOf w) (immUOf w)) := by
  simp [decodeWord, h]
theorem decodeWord_of_storeClass (h : opcodeOf w = 0x23#7) : decodeWord w = decodeStore w := by
  simp [decodeWord, h]
theorem decodeWord_of_opClass (h : opcodeOf w = 0x33#7) : decodeWord w = decodeOp w := by
  simp [decodeWord, h]
theorem decodeWord_of_lui (h : opcodeOf w = 0x37#7) : decodeWord w = .ok (.lui (rdOf w) (immUOf w)) := by
  simp [decodeWord, h]
theorem decodeWord_of_branchClass (h : opcodeOf w = 0x63#7) : decodeWord w = decodeBranch w := by
  simp [decodeWord, h]
theorem decodeWord_of_jalrClass (h : opcodeOf w = 0x67#7) : decodeWord w = decodeJalr w := by
  simp [decodeWord, h]
theorem decodeWord_of_jal (h : opcodeOf w = 0x6F#7) : decodeWord w = .ok (.jal (rdOf w) (immJOf w)) := by
  simp [decodeWord, h]
theorem decodeWord_of_ecall (h : opcodeOf w = 0x73#7) : decodeWord w = .ok .ecall := by
  simp [decodeWord, h]

/-! ## The fields that make each instruction (R73) -/

theorem decodeWord_lb (hop : opcodeOf w = 0x03#7) (h3 : funct3Of w = 0b000#3) :
    decodeWord w = .ok (.lb (rdOf w) (rs1Of w) (immIOf w)) := by
  rw [decodeWord_of_loadClass hop]; simp [decodeLoad, h3]
theorem decodeWord_lh (hop : opcodeOf w = 0x03#7) (h3 : funct3Of w = 0b001#3) :
    decodeWord w = .ok (.lh (rdOf w) (rs1Of w) (immIOf w)) := by
  rw [decodeWord_of_loadClass hop]; simp [decodeLoad, h3]
theorem decodeWord_lw (hop : opcodeOf w = 0x03#7) (h3 : funct3Of w = 0b010#3) :
    decodeWord w = .ok (.lw (rdOf w) (rs1Of w) (immIOf w)) := by
  rw [decodeWord_of_loadClass hop]; simp [decodeLoad, h3]
theorem decodeWord_lbu (hop : opcodeOf w = 0x03#7) (h3 : funct3Of w = 0b100#3) :
    decodeWord w = .ok (.lbu (rdOf w) (rs1Of w) (immIOf w)) := by
  rw [decodeWord_of_loadClass hop]; simp [decodeLoad, h3]
theorem decodeWord_lhu (hop : opcodeOf w = 0x03#7) (h3 : funct3Of w = 0b101#3) :
    decodeWord w = .ok (.lhu (rdOf w) (rs1Of w) (immIOf w)) := by
  rw [decodeWord_of_loadClass hop]; simp [decodeLoad, h3]
theorem decodeWord_addi (hop : opcodeOf w = 0x13#7) (h3 : funct3Of w = 0b000#3) :
    decodeWord w = .ok (.addi (rdOf w) (rs1Of w) (immIOf w)) := by
  rw [decodeWord_of_opImmClass hop]; simp [decodeOpImm, h3]
theorem decodeWord_slti (hop : opcodeOf w = 0x13#7) (h3 : funct3Of w = 0b010#3) :
    decodeWord w = .ok (.slti (rdOf w) (rs1Of w) (immIOf w)) := by
  rw [decodeWord_of_opImmClass hop]; simp [decodeOpImm, h3]
theorem decodeWord_sltiu (hop : opcodeOf w = 0x13#7) (h3 : funct3Of w = 0b011#3) :
    decodeWord w = .ok (.sltiu (rdOf w) (rs1Of w) (immIOf w)) := by
  rw [decodeWord_of_opImmClass hop]; simp [decodeOpImm, h3]
theorem decodeWord_xori (hop : opcodeOf w = 0x13#7) (h3 : funct3Of w = 0b100#3) :
    decodeWord w = .ok (.xori (rdOf w) (rs1Of w) (immIOf w)) := by
  rw [decodeWord_of_opImmClass hop]; simp [decodeOpImm, h3]
theorem decodeWord_ori (hop : opcodeOf w = 0x13#7) (h3 : funct3Of w = 0b110#3) :
    decodeWord w = .ok (.ori (rdOf w) (rs1Of w) (immIOf w)) := by
  rw [decodeWord_of_opImmClass hop]; simp [decodeOpImm, h3]
theorem decodeWord_andi (hop : opcodeOf w = 0x13#7) (h3 : funct3Of w = 0b111#3) :
    decodeWord w = .ok (.andi (rdOf w) (rs1Of w) (immIOf w)) := by
  rw [decodeWord_of_opImmClass hop]; simp [decodeOpImm, h3]
theorem decodeWord_slli (hop : opcodeOf w = 0x13#7) (h7 : funct7Of w = 0b0000000#7) (h3 : funct3Of w = 0b001#3) :
    decodeWord w = .ok (.slli (rdOf w) (rs1Of w) (shamtOf w)) := by
  rw [decodeWord_of_opImmClass hop]; simp [decodeOpImm, h7, h3]
theorem decodeWord_srli (hop : opcodeOf w = 0x13#7) (h7 : funct7Of w = 0b0000000#7) (h3 : funct3Of w = 0b101#3) :
    decodeWord w = .ok (.srli (rdOf w) (rs1Of w) (shamtOf w)) := by
  rw [decodeWord_of_opImmClass hop]; simp [decodeOpImm, h7, h3]
theorem decodeWord_srai (hop : opcodeOf w = 0x13#7) (h7 : funct7Of w = 0b0100000#7) (h3 : funct3Of w = 0b101#3) :
    decodeWord w = .ok (.srai (rdOf w) (rs1Of w) (shamtOf w)) := by
  rw [decodeWord_of_opImmClass hop]; simp [decodeOpImm, h7, h3]
theorem decodeWord_sb (hop : opcodeOf w = 0x23#7) (h3 : funct3Of w = 0b000#3) :
    decodeWord w = .ok (.sb (rs2Of w) (rs1Of w) (immSOf w)) := by
  rw [decodeWord_of_storeClass hop]; simp [decodeStore, h3]
theorem decodeWord_sh (hop : opcodeOf w = 0x23#7) (h3 : funct3Of w = 0b001#3) :
    decodeWord w = .ok (.sh (rs2Of w) (rs1Of w) (immSOf w)) := by
  rw [decodeWord_of_storeClass hop]; simp [decodeStore, h3]
theorem decodeWord_sw (hop : opcodeOf w = 0x23#7) (h3 : funct3Of w = 0b010#3) :
    decodeWord w = .ok (.sw (rs2Of w) (rs1Of w) (immSOf w)) := by
  rw [decodeWord_of_storeClass hop]; simp [decodeStore, h3]
theorem decodeWord_add (hop : opcodeOf w = 0x33#7) (h7 : funct7Of w = 0b0000000#7) (h3 : funct3Of w = 0b000#3) :
    decodeWord w = .ok (.add (rdOf w) (rs1Of w) (rs2Of w)) := by
  rw [decodeWord_of_opClass hop]; simp [decodeOp, h7, h3]
theorem decodeWord_sll (hop : opcodeOf w = 0x33#7) (h7 : funct7Of w = 0b0000000#7) (h3 : funct3Of w = 0b001#3) :
    decodeWord w = .ok (.sll (rdOf w) (rs1Of w) (rs2Of w)) := by
  rw [decodeWord_of_opClass hop]; simp [decodeOp, h7, h3]
theorem decodeWord_slt (hop : opcodeOf w = 0x33#7) (h7 : funct7Of w = 0b0000000#7) (h3 : funct3Of w = 0b010#3) :
    decodeWord w = .ok (.slt (rdOf w) (rs1Of w) (rs2Of w)) := by
  rw [decodeWord_of_opClass hop]; simp [decodeOp, h7, h3]
theorem decodeWord_sltu (hop : opcodeOf w = 0x33#7) (h7 : funct7Of w = 0b0000000#7) (h3 : funct3Of w = 0b011#3) :
    decodeWord w = .ok (.sltu (rdOf w) (rs1Of w) (rs2Of w)) := by
  rw [decodeWord_of_opClass hop]; simp [decodeOp, h7, h3]
theorem decodeWord_xor (hop : opcodeOf w = 0x33#7) (h7 : funct7Of w = 0b0000000#7) (h3 : funct3Of w = 0b100#3) :
    decodeWord w = .ok (.xor (rdOf w) (rs1Of w) (rs2Of w)) := by
  rw [decodeWord_of_opClass hop]; simp [decodeOp, h7, h3]
theorem decodeWord_srl (hop : opcodeOf w = 0x33#7) (h7 : funct7Of w = 0b0000000#7) (h3 : funct3Of w = 0b101#3) :
    decodeWord w = .ok (.srl (rdOf w) (rs1Of w) (rs2Of w)) := by
  rw [decodeWord_of_opClass hop]; simp [decodeOp, h7, h3]
theorem decodeWord_or (hop : opcodeOf w = 0x33#7) (h7 : funct7Of w = 0b0000000#7) (h3 : funct3Of w = 0b110#3) :
    decodeWord w = .ok (.or (rdOf w) (rs1Of w) (rs2Of w)) := by
  rw [decodeWord_of_opClass hop]; simp [decodeOp, h7, h3]
theorem decodeWord_and (hop : opcodeOf w = 0x33#7) (h7 : funct7Of w = 0b0000000#7) (h3 : funct3Of w = 0b111#3) :
    decodeWord w = .ok (.and (rdOf w) (rs1Of w) (rs2Of w)) := by
  rw [decodeWord_of_opClass hop]; simp [decodeOp, h7, h3]
theorem decodeWord_sub (hop : opcodeOf w = 0x33#7) (h7 : funct7Of w = 0b0100000#7) (h3 : funct3Of w = 0b000#3) :
    decodeWord w = .ok (.sub (rdOf w) (rs1Of w) (rs2Of w)) := by
  rw [decodeWord_of_opClass hop]; simp [decodeOp, h7, h3]
theorem decodeWord_sra (hop : opcodeOf w = 0x33#7) (h7 : funct7Of w = 0b0100000#7) (h3 : funct3Of w = 0b101#3) :
    decodeWord w = .ok (.sra (rdOf w) (rs1Of w) (rs2Of w)) := by
  rw [decodeWord_of_opClass hop]; simp [decodeOp, h7, h3]
theorem decodeWord_mul (hop : opcodeOf w = 0x33#7) (h7 : funct7Of w = 0b0000001#7) (h3 : funct3Of w = 0b000#3) :
    decodeWord w = .ok (.mul (rdOf w) (rs1Of w) (rs2Of w)) := by
  rw [decodeWord_of_opClass hop]; simp [decodeOp, h7, h3]
theorem decodeWord_mulh (hop : opcodeOf w = 0x33#7) (h7 : funct7Of w = 0b0000001#7) (h3 : funct3Of w = 0b001#3) :
    decodeWord w = .ok (.mulh (rdOf w) (rs1Of w) (rs2Of w)) := by
  rw [decodeWord_of_opClass hop]; simp [decodeOp, h7, h3]
theorem decodeWord_mulhsu (hop : opcodeOf w = 0x33#7) (h7 : funct7Of w = 0b0000001#7) (h3 : funct3Of w = 0b010#3) :
    decodeWord w = .ok (.mulhsu (rdOf w) (rs1Of w) (rs2Of w)) := by
  rw [decodeWord_of_opClass hop]; simp [decodeOp, h7, h3]
theorem decodeWord_mulhu (hop : opcodeOf w = 0x33#7) (h7 : funct7Of w = 0b0000001#7) (h3 : funct3Of w = 0b011#3) :
    decodeWord w = .ok (.mulhu (rdOf w) (rs1Of w) (rs2Of w)) := by
  rw [decodeWord_of_opClass hop]; simp [decodeOp, h7, h3]
theorem decodeWord_div (hop : opcodeOf w = 0x33#7) (h7 : funct7Of w = 0b0000001#7) (h3 : funct3Of w = 0b100#3) :
    decodeWord w = .ok (.div (rdOf w) (rs1Of w) (rs2Of w)) := by
  rw [decodeWord_of_opClass hop]; simp [decodeOp, h7, h3]
theorem decodeWord_divu (hop : opcodeOf w = 0x33#7) (h7 : funct7Of w = 0b0000001#7) (h3 : funct3Of w = 0b101#3) :
    decodeWord w = .ok (.divu (rdOf w) (rs1Of w) (rs2Of w)) := by
  rw [decodeWord_of_opClass hop]; simp [decodeOp, h7, h3]
theorem decodeWord_rem (hop : opcodeOf w = 0x33#7) (h7 : funct7Of w = 0b0000001#7) (h3 : funct3Of w = 0b110#3) :
    decodeWord w = .ok (.rem (rdOf w) (rs1Of w) (rs2Of w)) := by
  rw [decodeWord_of_opClass hop]; simp [decodeOp, h7, h3]
theorem decodeWord_remu (hop : opcodeOf w = 0x33#7) (h7 : funct7Of w = 0b0000001#7) (h3 : funct3Of w = 0b111#3) :
    decodeWord w = .ok (.remu (rdOf w) (rs1Of w) (rs2Of w)) := by
  rw [decodeWord_of_opClass hop]; simp [decodeOp, h7, h3]
theorem decodeWord_beq (hop : opcodeOf w = 0x63#7) (h3 : funct3Of w = 0b000#3) :
    decodeWord w = .ok (.beq (rs1Of w) (rs2Of w) (immBOf w)) := by
  rw [decodeWord_of_branchClass hop]; simp [decodeBranch, h3]
theorem decodeWord_bne (hop : opcodeOf w = 0x63#7) (h3 : funct3Of w = 0b001#3) :
    decodeWord w = .ok (.bne (rs1Of w) (rs2Of w) (immBOf w)) := by
  rw [decodeWord_of_branchClass hop]; simp [decodeBranch, h3]
theorem decodeWord_blt (hop : opcodeOf w = 0x63#7) (h3 : funct3Of w = 0b100#3) :
    decodeWord w = .ok (.blt (rs1Of w) (rs2Of w) (immBOf w)) := by
  rw [decodeWord_of_branchClass hop]; simp [decodeBranch, h3]
theorem decodeWord_bge (hop : opcodeOf w = 0x63#7) (h3 : funct3Of w = 0b101#3) :
    decodeWord w = .ok (.bge (rs1Of w) (rs2Of w) (immBOf w)) := by
  rw [decodeWord_of_branchClass hop]; simp [decodeBranch, h3]
theorem decodeWord_bltu (hop : opcodeOf w = 0x63#7) (h3 : funct3Of w = 0b110#3) :
    decodeWord w = .ok (.bltu (rs1Of w) (rs2Of w) (immBOf w)) := by
  rw [decodeWord_of_branchClass hop]; simp [decodeBranch, h3]
theorem decodeWord_bgeu (hop : opcodeOf w = 0x63#7) (h3 : funct3Of w = 0b111#3) :
    decodeWord w = .ok (.bgeu (rs1Of w) (rs2Of w) (immBOf w)) := by
  rw [decodeWord_of_branchClass hop]; simp [decodeBranch, h3]
theorem decodeWord_jalr (hop : opcodeOf w = 0x67#7) (h3 : funct3Of w = 0b000#3) :
    decodeWord w = .ok (.jalr (rdOf w) (rs1Of w) (immIOf w)) := by
  rw [decodeWord_of_jalrClass hop]; simp [decodeJalr, h3]

/-! ## What the decoder reads: a case for every instruction -/

/-- A three-bit field is one of its eight values. -/
theorem funct3_cases (x : BitVec 3) : x = 0b000#3 ∨ x = 0b001#3 ∨ x = 0b010#3 ∨ x = 0b011#3 ∨ x = 0b100#3 ∨ x = 0b101#3 ∨
    x = 0b110#3 ∨ x = 0b111#3 := by
  revert x; decide

theorem funct3_eq_seven {x : BitVec 3} (h0 : x ≠ 0b000#3) (h1 : x ≠ 0b001#3) (h2 : x ≠ 0b010#3) (h3 : x ≠ 0b011#3)
    (h4 : x ≠ 0b100#3) (h5 : x ≠ 0b101#3) (h6 : x ≠ 0b110#3) : x = 0b111#3 := by
  rcases funct3_cases x with h | h | h | h | h | h | h | h <;> first | exact h | contradiction

theorem funct3_eq_five {x : BitVec 3} (h0 : x ≠ 0b000#3) (h2 : x ≠ 0b010#3) (h3 : x ≠ 0b011#3) (h4 : x ≠ 0b100#3)
    (h6 : x ≠ 0b110#3) (h7 : x ≠ 0b111#3) (h1 : x ≠ 0b001#3) : x = 0b101#3 := by
  rcases funct3_cases x with h | h | h | h | h | h | h | h <;> first | exact h | contradiction

theorem decodeLoad_ok_cases {P : Instr → Prop} {i : Instr} (h : decodeLoad w = .ok i)
    (lb : funct3Of w = 0b000#3 → P (.lb (rdOf w) (rs1Of w) (immIOf w)))
    (lh : funct3Of w = 0b001#3 → P (.lh (rdOf w) (rs1Of w) (immIOf w)))
    (lw : funct3Of w = 0b010#3 → P (.lw (rdOf w) (rs1Of w) (immIOf w)))
    (lbu : funct3Of w = 0b100#3 → P (.lbu (rdOf w) (rs1Of w) (immIOf w)))
    (lhu : funct3Of w = 0b101#3 → P (.lhu (rdOf w) (rs1Of w) (immIOf w)))
    : P i := by
  unfold decodeLoad at h; dsimp only at h
  by_cases h0 : funct3Of w = 0b000#3
  · rw [if_pos h0] at h; cases h; exact lb h0
  rw [if_neg h0] at h
  by_cases h1 : funct3Of w = 0b001#3
  · rw [if_pos h1] at h; cases h; exact lh h1
  rw [if_neg h1] at h
  by_cases h2 : funct3Of w = 0b010#3
  · rw [if_pos h2] at h; cases h; exact lw h2
  rw [if_neg h2] at h
  by_cases h4 : funct3Of w = 0b100#3
  · rw [if_pos h4] at h; cases h; exact lbu h4
  rw [if_neg h4] at h
  by_cases h5 : funct3Of w = 0b101#3
  · rw [if_pos h5] at h; cases h; exact lhu h5
  rw [if_neg h5] at h
  cases h

theorem decodeOpImm_ok_cases {P : Instr → Prop} {i : Instr} (h : decodeOpImm w = .ok i)
    (addi : funct3Of w = 0b000#3 → P (.addi (rdOf w) (rs1Of w) (immIOf w)))
    (slti : funct3Of w = 0b010#3 → P (.slti (rdOf w) (rs1Of w) (immIOf w)))
    (sltiu : funct3Of w = 0b011#3 → P (.sltiu (rdOf w) (rs1Of w) (immIOf w)))
    (xori : funct3Of w = 0b100#3 → P (.xori (rdOf w) (rs1Of w) (immIOf w)))
    (ori : funct3Of w = 0b110#3 → P (.ori (rdOf w) (rs1Of w) (immIOf w)))
    (andi : funct3Of w = 0b111#3 → P (.andi (rdOf w) (rs1Of w) (immIOf w)))
    (slli : funct7Of w = 0b0000000#7 → funct3Of w = 0b001#3 → P (.slli (rdOf w) (rs1Of w) (shamtOf w)))
    (srli : funct7Of w = 0b0000000#7 → funct3Of w = 0b101#3 → P (.srli (rdOf w) (rs1Of w) (shamtOf w)))
    (srai : funct7Of w = 0b0100000#7 → funct3Of w = 0b101#3 → P (.srai (rdOf w) (rs1Of w) (shamtOf w)))
    : P i := by
  unfold decodeOpImm at h; dsimp only at h
  by_cases h0 : funct3Of w = 0b000#3
  · rw [if_pos h0] at h; cases h; exact addi h0
  rw [if_neg h0] at h
  by_cases h2 : funct3Of w = 0b010#3
  · rw [if_pos h2] at h; cases h; exact slti h2
  rw [if_neg h2] at h
  by_cases h3 : funct3Of w = 0b011#3
  · rw [if_pos h3] at h; cases h; exact sltiu h3
  rw [if_neg h3] at h
  by_cases h4 : funct3Of w = 0b100#3
  · rw [if_pos h4] at h; cases h; exact xori h4
  rw [if_neg h4] at h
  by_cases h6 : funct3Of w = 0b110#3
  · rw [if_pos h6] at h; cases h; exact ori h6
  rw [if_neg h6] at h
  by_cases h7 : funct3Of w = 0b111#3
  · rw [if_pos h7] at h; cases h; exact andi h7
  rw [if_neg h7] at h
  by_cases h1 : funct3Of w = 0b001#3
  · rw [if_pos h1] at h
    by_cases g0 : funct7Of w = 0b0000000#7
    · rw [if_pos g0] at h; cases h; exact slli g0 h1
    · rw [if_neg g0] at h; cases h
  rw [if_neg h1] at h
  have h5 : funct3Of w = 0b101#3 := funct3_eq_five h0 h2 h3 h4 h6 h7 h1
  by_cases g0 : funct7Of w = 0b0000000#7
  · rw [if_pos g0] at h; cases h; exact srli g0 h5
  rw [if_neg g0] at h
  by_cases g32 : funct7Of w = 0b0100000#7
  · rw [if_pos g32] at h; cases h; exact srai g32 h5
  · rw [if_neg g32] at h; cases h

theorem decodeStore_ok_cases {P : Instr → Prop} {i : Instr} (h : decodeStore w = .ok i)
    (sb : funct3Of w = 0b000#3 → P (.sb (rs2Of w) (rs1Of w) (immSOf w)))
    (sh : funct3Of w = 0b001#3 → P (.sh (rs2Of w) (rs1Of w) (immSOf w)))
    (sw : funct3Of w = 0b010#3 → P (.sw (rs2Of w) (rs1Of w) (immSOf w)))
    : P i := by
  unfold decodeStore at h; dsimp only at h
  by_cases h0 : funct3Of w = 0b000#3
  · rw [if_pos h0] at h; cases h; exact sb h0
  rw [if_neg h0] at h
  by_cases h1 : funct3Of w = 0b001#3
  · rw [if_pos h1] at h; cases h; exact sh h1
  rw [if_neg h1] at h
  by_cases h2 : funct3Of w = 0b010#3
  · rw [if_pos h2] at h; cases h; exact sw h2
  rw [if_neg h2] at h
  cases h

theorem decodeOp_ok_cases {P : Instr → Prop} {i : Instr} (h : decodeOp w = .ok i)
    (add : funct7Of w = 0b0000000#7 → funct3Of w = 0b000#3 → P (.add (rdOf w) (rs1Of w) (rs2Of w)))
    (sll : funct7Of w = 0b0000000#7 → funct3Of w = 0b001#3 → P (.sll (rdOf w) (rs1Of w) (rs2Of w)))
    (slt : funct7Of w = 0b0000000#7 → funct3Of w = 0b010#3 → P (.slt (rdOf w) (rs1Of w) (rs2Of w)))
    (sltu : funct7Of w = 0b0000000#7 → funct3Of w = 0b011#3 → P (.sltu (rdOf w) (rs1Of w) (rs2Of w)))
    (xor : funct7Of w = 0b0000000#7 → funct3Of w = 0b100#3 → P (.xor (rdOf w) (rs1Of w) (rs2Of w)))
    (srl : funct7Of w = 0b0000000#7 → funct3Of w = 0b101#3 → P (.srl (rdOf w) (rs1Of w) (rs2Of w)))
    (or : funct7Of w = 0b0000000#7 → funct3Of w = 0b110#3 → P (.or (rdOf w) (rs1Of w) (rs2Of w)))
    (and : funct7Of w = 0b0000000#7 → funct3Of w = 0b111#3 → P (.and (rdOf w) (rs1Of w) (rs2Of w)))
    (sub : funct7Of w = 0b0100000#7 → funct3Of w = 0b000#3 → P (.sub (rdOf w) (rs1Of w) (rs2Of w)))
    (sra : funct7Of w = 0b0100000#7 → funct3Of w = 0b101#3 → P (.sra (rdOf w) (rs1Of w) (rs2Of w)))
    (mul : funct7Of w = 0b0000001#7 → funct3Of w = 0b000#3 → P (.mul (rdOf w) (rs1Of w) (rs2Of w)))
    (mulh : funct7Of w = 0b0000001#7 → funct3Of w = 0b001#3 → P (.mulh (rdOf w) (rs1Of w) (rs2Of w)))
    (mulhsu : funct7Of w = 0b0000001#7 → funct3Of w = 0b010#3 → P (.mulhsu (rdOf w) (rs1Of w) (rs2Of w)))
    (mulhu : funct7Of w = 0b0000001#7 → funct3Of w = 0b011#3 → P (.mulhu (rdOf w) (rs1Of w) (rs2Of w)))
    (div : funct7Of w = 0b0000001#7 → funct3Of w = 0b100#3 → P (.div (rdOf w) (rs1Of w) (rs2Of w)))
    (divu : funct7Of w = 0b0000001#7 → funct3Of w = 0b101#3 → P (.divu (rdOf w) (rs1Of w) (rs2Of w)))
    (rem : funct7Of w = 0b0000001#7 → funct3Of w = 0b110#3 → P (.rem (rdOf w) (rs1Of w) (rs2Of w)))
    (remu : funct7Of w = 0b0000001#7 → funct3Of w = 0b111#3 → P (.remu (rdOf w) (rs1Of w) (rs2Of w)))
    : P i := by
  unfold decodeOp at h; dsimp only at h
  by_cases g0 : funct7Of w = 0b0000000#7
  · rw [if_pos g0] at h
    by_cases h0 : funct3Of w = 0b000#3
    · rw [if_pos h0] at h; cases h; exact add g0 h0
    rw [if_neg h0] at h
    by_cases h1 : funct3Of w = 0b001#3
    · rw [if_pos h1] at h; cases h; exact sll g0 h1
    rw [if_neg h1] at h
    by_cases h2 : funct3Of w = 0b010#3
    · rw [if_pos h2] at h; cases h; exact slt g0 h2
    rw [if_neg h2] at h
    by_cases h3 : funct3Of w = 0b011#3
    · rw [if_pos h3] at h; cases h; exact sltu g0 h3
    rw [if_neg h3] at h
    by_cases h4 : funct3Of w = 0b100#3
    · rw [if_pos h4] at h; cases h; exact xor g0 h4
    rw [if_neg h4] at h
    by_cases h5 : funct3Of w = 0b101#3
    · rw [if_pos h5] at h; cases h; exact srl g0 h5
    rw [if_neg h5] at h
    by_cases h6 : funct3Of w = 0b110#3
    · rw [if_pos h6] at h; cases h; exact or g0 h6
    rw [if_neg h6] at h
    cases h
    exact and g0 (funct3_eq_seven h0 h1 h2 h3 h4 h5 h6)
  rw [if_neg g0] at h
  by_cases g32 : funct7Of w = 0b0100000#7
  · rw [if_pos g32] at h
    by_cases h0 : funct3Of w = 0b000#3
    · rw [if_pos h0] at h; cases h; exact sub g32 h0
    rw [if_neg h0] at h
    by_cases h5 : funct3Of w = 0b101#3
    · rw [if_pos h5] at h; cases h; exact sra g32 h5
    rw [if_neg h5] at h
    cases h
  rw [if_neg g32] at h
  by_cases g1 : funct7Of w = 0b0000001#7
  · rw [if_pos g1] at h
    by_cases h0 : funct3Of w = 0b000#3
    · rw [if_pos h0] at h; cases h; exact mul g1 h0
    rw [if_neg h0] at h
    by_cases h1 : funct3Of w = 0b001#3
    · rw [if_pos h1] at h; cases h; exact mulh g1 h1
    rw [if_neg h1] at h
    by_cases h2 : funct3Of w = 0b010#3
    · rw [if_pos h2] at h; cases h; exact mulhsu g1 h2
    rw [if_neg h2] at h
    by_cases h3 : funct3Of w = 0b011#3
    · rw [if_pos h3] at h; cases h; exact mulhu g1 h3
    rw [if_neg h3] at h
    by_cases h4 : funct3Of w = 0b100#3
    · rw [if_pos h4] at h; cases h; exact div g1 h4
    rw [if_neg h4] at h
    by_cases h5 : funct3Of w = 0b101#3
    · rw [if_pos h5] at h; cases h; exact divu g1 h5
    rw [if_neg h5] at h
    by_cases h6 : funct3Of w = 0b110#3
    · rw [if_pos h6] at h; cases h; exact rem g1 h6
    rw [if_neg h6] at h
    cases h
    exact remu g1 (funct3_eq_seven h0 h1 h2 h3 h4 h5 h6)
  rw [if_neg g1] at h
  cases h

theorem decodeBranch_ok_cases {P : Instr → Prop} {i : Instr} (h : decodeBranch w = .ok i)
    (beq : funct3Of w = 0b000#3 → P (.beq (rs1Of w) (rs2Of w) (immBOf w)))
    (bne : funct3Of w = 0b001#3 → P (.bne (rs1Of w) (rs2Of w) (immBOf w)))
    (blt : funct3Of w = 0b100#3 → P (.blt (rs1Of w) (rs2Of w) (immBOf w)))
    (bge : funct3Of w = 0b101#3 → P (.bge (rs1Of w) (rs2Of w) (immBOf w)))
    (bltu : funct3Of w = 0b110#3 → P (.bltu (rs1Of w) (rs2Of w) (immBOf w)))
    (bgeu : funct3Of w = 0b111#3 → P (.bgeu (rs1Of w) (rs2Of w) (immBOf w)))
    : P i := by
  unfold decodeBranch at h; dsimp only at h
  by_cases h0 : funct3Of w = 0b000#3
  · rw [if_pos h0] at h; cases h; exact beq h0
  rw [if_neg h0] at h
  by_cases h1 : funct3Of w = 0b001#3
  · rw [if_pos h1] at h; cases h; exact bne h1
  rw [if_neg h1] at h
  by_cases h4 : funct3Of w = 0b100#3
  · rw [if_pos h4] at h; cases h; exact blt h4
  rw [if_neg h4] at h
  by_cases h5 : funct3Of w = 0b101#3
  · rw [if_pos h5] at h; cases h; exact bge h5
  rw [if_neg h5] at h
  by_cases h6 : funct3Of w = 0b110#3
  · rw [if_pos h6] at h; cases h; exact bltu h6
  rw [if_neg h6] at h
  by_cases h7 : funct3Of w = 0b111#3
  · rw [if_pos h7] at h; cases h; exact bgeu h7
  rw [if_neg h7] at h
  cases h

theorem decodeJalr_ok_cases {P : Instr → Prop} {i : Instr} (h : decodeJalr w = .ok i)
    (jalr : funct3Of w = 0b000#3 → P (.jalr (rdOf w) (rs1Of w) (immIOf w)))
    : P i := by
  unfold decodeJalr at h
  by_cases h0 : funct3Of w = 0b000#3
  · rw [if_pos h0] at h; cases h; exact jalr h0
  rw [if_neg h0] at h
  cases h

/-- To show something of the instruction a word is, show it for each instruction of the word's own fields. -/
theorem decodeWord_ok_cases {P : Instr → Prop} {i : Instr} (h : decodeWord w = .ok i)
    (lb : opcodeOf w = 0x03#7 → funct3Of w = 0b000#3 → P (.lb (rdOf w) (rs1Of w) (immIOf w)))
    (lh : opcodeOf w = 0x03#7 → funct3Of w = 0b001#3 → P (.lh (rdOf w) (rs1Of w) (immIOf w)))
    (lw : opcodeOf w = 0x03#7 → funct3Of w = 0b010#3 → P (.lw (rdOf w) (rs1Of w) (immIOf w)))
    (lbu : opcodeOf w = 0x03#7 → funct3Of w = 0b100#3 → P (.lbu (rdOf w) (rs1Of w) (immIOf w)))
    (lhu : opcodeOf w = 0x03#7 → funct3Of w = 0b101#3 → P (.lhu (rdOf w) (rs1Of w) (immIOf w)))
    (addi : opcodeOf w = 0x13#7 → funct3Of w = 0b000#3 → P (.addi (rdOf w) (rs1Of w) (immIOf w)))
    (slti : opcodeOf w = 0x13#7 → funct3Of w = 0b010#3 → P (.slti (rdOf w) (rs1Of w) (immIOf w)))
    (sltiu : opcodeOf w = 0x13#7 → funct3Of w = 0b011#3 → P (.sltiu (rdOf w) (rs1Of w) (immIOf w)))
    (xori : opcodeOf w = 0x13#7 → funct3Of w = 0b100#3 → P (.xori (rdOf w) (rs1Of w) (immIOf w)))
    (ori : opcodeOf w = 0x13#7 → funct3Of w = 0b110#3 → P (.ori (rdOf w) (rs1Of w) (immIOf w)))
    (andi : opcodeOf w = 0x13#7 → funct3Of w = 0b111#3 → P (.andi (rdOf w) (rs1Of w) (immIOf w)))
    (slli : opcodeOf w = 0x13#7 → funct7Of w = 0b0000000#7 → funct3Of w = 0b001#3 → P (.slli (rdOf w) (rs1Of w) (shamtOf w)))
    (srli : opcodeOf w = 0x13#7 → funct7Of w = 0b0000000#7 → funct3Of w = 0b101#3 → P (.srli (rdOf w) (rs1Of w) (shamtOf w)))
    (srai : opcodeOf w = 0x13#7 → funct7Of w = 0b0100000#7 → funct3Of w = 0b101#3 → P (.srai (rdOf w) (rs1Of w) (shamtOf w)))
    (auipc : opcodeOf w = 0x17#7 → P (.auipc (rdOf w) (immUOf w)))
    (sb : opcodeOf w = 0x23#7 → funct3Of w = 0b000#3 → P (.sb (rs2Of w) (rs1Of w) (immSOf w)))
    (sh : opcodeOf w = 0x23#7 → funct3Of w = 0b001#3 → P (.sh (rs2Of w) (rs1Of w) (immSOf w)))
    (sw : opcodeOf w = 0x23#7 → funct3Of w = 0b010#3 → P (.sw (rs2Of w) (rs1Of w) (immSOf w)))
    (add : opcodeOf w = 0x33#7 → funct7Of w = 0b0000000#7 → funct3Of w = 0b000#3 → P (.add (rdOf w) (rs1Of w) (rs2Of w)))
    (sll : opcodeOf w = 0x33#7 → funct7Of w = 0b0000000#7 → funct3Of w = 0b001#3 → P (.sll (rdOf w) (rs1Of w) (rs2Of w)))
    (slt : opcodeOf w = 0x33#7 → funct7Of w = 0b0000000#7 → funct3Of w = 0b010#3 → P (.slt (rdOf w) (rs1Of w) (rs2Of w)))
    (sltu : opcodeOf w = 0x33#7 → funct7Of w = 0b0000000#7 → funct3Of w = 0b011#3 → P (.sltu (rdOf w) (rs1Of w) (rs2Of w)))
    (xor : opcodeOf w = 0x33#7 → funct7Of w = 0b0000000#7 → funct3Of w = 0b100#3 → P (.xor (rdOf w) (rs1Of w) (rs2Of w)))
    (srl : opcodeOf w = 0x33#7 → funct7Of w = 0b0000000#7 → funct3Of w = 0b101#3 → P (.srl (rdOf w) (rs1Of w) (rs2Of w)))
    (or : opcodeOf w = 0x33#7 → funct7Of w = 0b0000000#7 → funct3Of w = 0b110#3 → P (.or (rdOf w) (rs1Of w) (rs2Of w)))
    (and : opcodeOf w = 0x33#7 → funct7Of w = 0b0000000#7 → funct3Of w = 0b111#3 → P (.and (rdOf w) (rs1Of w) (rs2Of w)))
    (sub : opcodeOf w = 0x33#7 → funct7Of w = 0b0100000#7 → funct3Of w = 0b000#3 → P (.sub (rdOf w) (rs1Of w) (rs2Of w)))
    (sra : opcodeOf w = 0x33#7 → funct7Of w = 0b0100000#7 → funct3Of w = 0b101#3 → P (.sra (rdOf w) (rs1Of w) (rs2Of w)))
    (mul : opcodeOf w = 0x33#7 → funct7Of w = 0b0000001#7 → funct3Of w = 0b000#3 → P (.mul (rdOf w) (rs1Of w) (rs2Of w)))
    (mulh : opcodeOf w = 0x33#7 → funct7Of w = 0b0000001#7 → funct3Of w = 0b001#3 → P (.mulh (rdOf w) (rs1Of w) (rs2Of w)))
    (mulhsu : opcodeOf w = 0x33#7 → funct7Of w = 0b0000001#7 → funct3Of w = 0b010#3 → P (.mulhsu (rdOf w) (rs1Of w) (rs2Of w)))
    (mulhu : opcodeOf w = 0x33#7 → funct7Of w = 0b0000001#7 → funct3Of w = 0b011#3 → P (.mulhu (rdOf w) (rs1Of w) (rs2Of w)))
    (div : opcodeOf w = 0x33#7 → funct7Of w = 0b0000001#7 → funct3Of w = 0b100#3 → P (.div (rdOf w) (rs1Of w) (rs2Of w)))
    (divu : opcodeOf w = 0x33#7 → funct7Of w = 0b0000001#7 → funct3Of w = 0b101#3 → P (.divu (rdOf w) (rs1Of w) (rs2Of w)))
    (rem : opcodeOf w = 0x33#7 → funct7Of w = 0b0000001#7 → funct3Of w = 0b110#3 → P (.rem (rdOf w) (rs1Of w) (rs2Of w)))
    (remu : opcodeOf w = 0x33#7 → funct7Of w = 0b0000001#7 → funct3Of w = 0b111#3 → P (.remu (rdOf w) (rs1Of w) (rs2Of w)))
    (lui : opcodeOf w = 0x37#7 → P (.lui (rdOf w) (immUOf w)))
    (beq : opcodeOf w = 0x63#7 → funct3Of w = 0b000#3 → P (.beq (rs1Of w) (rs2Of w) (immBOf w)))
    (bne : opcodeOf w = 0x63#7 → funct3Of w = 0b001#3 → P (.bne (rs1Of w) (rs2Of w) (immBOf w)))
    (blt : opcodeOf w = 0x63#7 → funct3Of w = 0b100#3 → P (.blt (rs1Of w) (rs2Of w) (immBOf w)))
    (bge : opcodeOf w = 0x63#7 → funct3Of w = 0b101#3 → P (.bge (rs1Of w) (rs2Of w) (immBOf w)))
    (bltu : opcodeOf w = 0x63#7 → funct3Of w = 0b110#3 → P (.bltu (rs1Of w) (rs2Of w) (immBOf w)))
    (bgeu : opcodeOf w = 0x63#7 → funct3Of w = 0b111#3 → P (.bgeu (rs1Of w) (rs2Of w) (immBOf w)))
    (jalr : opcodeOf w = 0x67#7 → funct3Of w = 0b000#3 → P (.jalr (rdOf w) (rs1Of w) (immIOf w)))
    (jal : opcodeOf w = 0x6F#7 → P (.jal (rdOf w) (immJOf w)))
    (ecall : opcodeOf w = 0x73#7 → P .ecall)
    : P i := by
  by_cases o03 : opcodeOf w = 0x03#7
  · rw [decodeWord_of_loadClass o03] at h
    exact decodeLoad_ok_cases h (lb o03) (lh o03) (lw o03) (lbu o03) (lhu o03)
  by_cases o13 : opcodeOf w = 0x13#7
  · rw [decodeWord_of_opImmClass o13] at h
    exact decodeOpImm_ok_cases h (addi o13) (slti o13) (sltiu o13) (xori o13) (ori o13) (andi o13) (slli o13) (srli o13) (srai o13)
  by_cases o17 : opcodeOf w = 0x17#7
  · rw [decodeWord_of_auipc o17] at h; cases h; exact auipc o17
  by_cases o23 : opcodeOf w = 0x23#7
  · rw [decodeWord_of_storeClass o23] at h
    exact decodeStore_ok_cases h (sb o23) (sh o23) (sw o23)
  by_cases o33 : opcodeOf w = 0x33#7
  · rw [decodeWord_of_opClass o33] at h
    exact decodeOp_ok_cases h (add o33) (sll o33) (slt o33) (sltu o33) (xor o33) (srl o33) (or o33) (and o33) (sub o33) (sra o33) (mul o33) (mulh o33) (mulhsu o33) (mulhu o33) (div o33) (divu o33) (rem o33) (remu o33)
  by_cases o37 : opcodeOf w = 0x37#7
  · rw [decodeWord_of_lui o37] at h; cases h; exact lui o37
  by_cases o63 : opcodeOf w = 0x63#7
  · rw [decodeWord_of_branchClass o63] at h
    exact decodeBranch_ok_cases h (beq o63) (bne o63) (blt o63) (bge o63) (bltu o63) (bgeu o63)
  by_cases o67 : opcodeOf w = 0x67#7
  · rw [decodeWord_of_jalrClass o67] at h
    exact decodeJalr_ok_cases h (jalr o67)
  by_cases o6F : opcodeOf w = 0x6F#7
  · rw [decodeWord_of_jal o6F] at h; cases h; exact jal o6F
  by_cases o73 : opcodeOf w = 0x73#7
  · rw [decodeWord_of_ecall o73] at h; cases h; exact ecall o73
  unfold decodeWord at h; dsimp only at h
  rw [if_neg o03, if_neg o13, if_neg o17, if_neg o23, if_neg o33, if_neg o37, if_neg o63, if_neg o67, if_neg o6F, if_neg o73] at h
  cases h

/-! ## What the decoder rejects (R76, R77) -/

theorem decodeLoad_error {e : DecodeError} (h : decodeLoad w = .error e) :
    funct3Of w ≠ 0b000#3 ∧ funct3Of w ≠ 0b001#3 ∧ funct3Of w ≠ 0b010#3 ∧ funct3Of w ≠ 0b100#3 ∧ funct3Of w ≠ 0b101#3 := by
  unfold decodeLoad at h; dsimp only at h
  by_cases h0 : funct3Of w = 0b000#3
  · rw [if_pos h0] at h; cases h
  rw [if_neg h0] at h
  by_cases h1 : funct3Of w = 0b001#3
  · rw [if_pos h1] at h; cases h
  rw [if_neg h1] at h
  by_cases h2 : funct3Of w = 0b010#3
  · rw [if_pos h2] at h; cases h
  rw [if_neg h2] at h
  by_cases h4 : funct3Of w = 0b100#3
  · rw [if_pos h4] at h; cases h
  rw [if_neg h4] at h
  by_cases h5 : funct3Of w = 0b101#3
  · rw [if_pos h5] at h; cases h
  rw [if_neg h5] at h
  exact ⟨h0, h1, h2, h4, h5⟩

theorem decodeOpImm_error {e : DecodeError} (h : decodeOpImm w = .error e) :
    (funct3Of w = 0b001#3 ∧ funct7Of w ≠ 0b0000000#7) ∨ (funct3Of w = 0b101#3 ∧ funct7Of w ≠ 0b0000000#7 ∧
      funct7Of w ≠ 0b0100000#7) := by
  unfold decodeOpImm at h; dsimp only at h
  by_cases h0 : funct3Of w = 0b000#3
  · rw [if_pos h0] at h; cases h
  rw [if_neg h0] at h
  by_cases h2 : funct3Of w = 0b010#3
  · rw [if_pos h2] at h; cases h
  rw [if_neg h2] at h
  by_cases h3 : funct3Of w = 0b011#3
  · rw [if_pos h3] at h; cases h
  rw [if_neg h3] at h
  by_cases h4 : funct3Of w = 0b100#3
  · rw [if_pos h4] at h; cases h
  rw [if_neg h4] at h
  by_cases h6 : funct3Of w = 0b110#3
  · rw [if_pos h6] at h; cases h
  rw [if_neg h6] at h
  by_cases h7 : funct3Of w = 0b111#3
  · rw [if_pos h7] at h; cases h
  rw [if_neg h7] at h
  by_cases h1 : funct3Of w = 0b001#3
  · rw [if_pos h1] at h
    by_cases g0 : funct7Of w = 0b0000000#7
    · rw [if_pos g0] at h; cases h
    · exact .inl ⟨h1, g0⟩
  rw [if_neg h1] at h
  have h5 : funct3Of w = 0b101#3 := funct3_eq_five h0 h2 h3 h4 h6 h7 h1
  by_cases g0 : funct7Of w = 0b0000000#7
  · rw [if_pos g0] at h; cases h
  rw [if_neg g0] at h
  by_cases g32 : funct7Of w = 0b0100000#7
  · rw [if_pos g32] at h; cases h
  · exact .inr ⟨h5, g0, g32⟩

theorem decodeStore_error {e : DecodeError} (h : decodeStore w = .error e) :
    funct3Of w ≠ 0b000#3 ∧ funct3Of w ≠ 0b001#3 ∧ funct3Of w ≠ 0b010#3 := by
  unfold decodeStore at h; dsimp only at h
  by_cases h0 : funct3Of w = 0b000#3
  · rw [if_pos h0] at h; cases h
  rw [if_neg h0] at h
  by_cases h1 : funct3Of w = 0b001#3
  · rw [if_pos h1] at h; cases h
  rw [if_neg h1] at h
  by_cases h2 : funct3Of w = 0b010#3
  · rw [if_pos h2] at h; cases h
  rw [if_neg h2] at h
  exact ⟨h0, h1, h2⟩

theorem decodeOp_error {e : DecodeError} (h : decodeOp w = .error e) :
    funct7Of w ≠ 0b0000000#7 ∧ funct7Of w ≠ 0b0000001#7 ∧ (funct7Of w = 0b0100000#7 → funct3Of w ≠ 0b000#3 ∧
      funct3Of w ≠ 0b101#3) := by
  unfold decodeOp at h; dsimp only at h
  by_cases g0 : funct7Of w = 0b0000000#7
  · rw [if_pos g0] at h
    by_cases h0 : funct3Of w = 0b000#3
    · rw [if_pos h0] at h; cases h
    rw [if_neg h0] at h
    by_cases h1 : funct3Of w = 0b001#3
    · rw [if_pos h1] at h; cases h
    rw [if_neg h1] at h
    by_cases h2 : funct3Of w = 0b010#3
    · rw [if_pos h2] at h; cases h
    rw [if_neg h2] at h
    by_cases h3 : funct3Of w = 0b011#3
    · rw [if_pos h3] at h; cases h
    rw [if_neg h3] at h
    by_cases h4 : funct3Of w = 0b100#3
    · rw [if_pos h4] at h; cases h
    rw [if_neg h4] at h
    by_cases h5 : funct3Of w = 0b101#3
    · rw [if_pos h5] at h; cases h
    rw [if_neg h5] at h
    by_cases h6 : funct3Of w = 0b110#3
    · rw [if_pos h6] at h; cases h
    rw [if_neg h6] at h
    cases h
  rw [if_neg g0] at h
  by_cases g32 : funct7Of w = 0b0100000#7
  · rw [if_pos g32] at h
    by_cases h0 : funct3Of w = 0b000#3
    · rw [if_pos h0] at h; cases h
    rw [if_neg h0] at h
    by_cases h5 : funct3Of w = 0b101#3
    · rw [if_pos h5] at h; cases h
    rw [if_neg h5] at h
    exact ⟨by rw [g32]; decide, by rw [g32]; decide, fun _ => ⟨h0, h5⟩⟩
  rw [if_neg g32] at h
  by_cases g1 : funct7Of w = 0b0000001#7
  · rw [if_pos g1] at h
    by_cases h0 : funct3Of w = 0b000#3
    · rw [if_pos h0] at h; cases h
    rw [if_neg h0] at h
    by_cases h1 : funct3Of w = 0b001#3
    · rw [if_pos h1] at h; cases h
    rw [if_neg h1] at h
    by_cases h2 : funct3Of w = 0b010#3
    · rw [if_pos h2] at h; cases h
    rw [if_neg h2] at h
    by_cases h3 : funct3Of w = 0b011#3
    · rw [if_pos h3] at h; cases h
    rw [if_neg h3] at h
    by_cases h4 : funct3Of w = 0b100#3
    · rw [if_pos h4] at h; cases h
    rw [if_neg h4] at h
    by_cases h5 : funct3Of w = 0b101#3
    · rw [if_pos h5] at h; cases h
    rw [if_neg h5] at h
    by_cases h6 : funct3Of w = 0b110#3
    · rw [if_pos h6] at h; cases h
    rw [if_neg h6] at h
    cases h
  rw [if_neg g1] at h
  exact ⟨g0, g1, fun h => absurd h g32⟩

theorem decodeBranch_error {e : DecodeError} (h : decodeBranch w = .error e) :
    funct3Of w ≠ 0b000#3 ∧ funct3Of w ≠ 0b001#3 ∧ funct3Of w ≠ 0b100#3 ∧ funct3Of w ≠ 0b101#3 ∧ funct3Of w ≠ 0b110#3 ∧
      funct3Of w ≠ 0b111#3 := by
  unfold decodeBranch at h; dsimp only at h
  by_cases h0 : funct3Of w = 0b000#3
  · rw [if_pos h0] at h; cases h
  rw [if_neg h0] at h
  by_cases h1 : funct3Of w = 0b001#3
  · rw [if_pos h1] at h; cases h
  rw [if_neg h1] at h
  by_cases h4 : funct3Of w = 0b100#3
  · rw [if_pos h4] at h; cases h
  rw [if_neg h4] at h
  by_cases h5 : funct3Of w = 0b101#3
  · rw [if_pos h5] at h; cases h
  rw [if_neg h5] at h
  by_cases h6 : funct3Of w = 0b110#3
  · rw [if_pos h6] at h; cases h
  rw [if_neg h6] at h
  by_cases h7 : funct3Of w = 0b111#3
  · rw [if_pos h7] at h; cases h
  rw [if_neg h7] at h
  exact ⟨h0, h1, h4, h5, h6, h7⟩

theorem decodeJalr_error {e : DecodeError} (h : decodeJalr w = .error e) :
    funct3Of w ≠ 0b000#3 := by
  unfold decodeJalr at h
  by_cases h0 : funct3Of w = 0b000#3
  · rw [if_pos h0] at h; cases h
  rw [if_neg h0] at h
  exact h0

/-- The fields of a word that is no instruction. -/
theorem decodeWord_error {e : DecodeError} (h : decodeWord w = .error e) :
    (opcodeOf w = 0x03#7 ∧ (funct3Of w ≠ 0b000#3 ∧ funct3Of w ≠ 0b001#3 ∧ funct3Of w ≠ 0b010#3 ∧ funct3Of w ≠ 0b100#3 ∧
      funct3Of w ≠ 0b101#3)) ∨
    (opcodeOf w = 0x13#7 ∧ ((funct3Of w = 0b001#3 ∧ funct7Of w ≠ 0b0000000#7) ∨ (funct3Of w = 0b101#3 ∧
      funct7Of w ≠ 0b0000000#7 ∧ funct7Of w ≠ 0b0100000#7))) ∨
    (opcodeOf w = 0x23#7 ∧ (funct3Of w ≠ 0b000#3 ∧ funct3Of w ≠ 0b001#3 ∧ funct3Of w ≠ 0b010#3)) ∨
    (opcodeOf w = 0x33#7 ∧ (funct7Of w ≠ 0b0000000#7 ∧ funct7Of w ≠ 0b0000001#7 ∧
      (funct7Of w = 0b0100000#7 → funct3Of w ≠ 0b000#3 ∧ funct3Of w ≠ 0b101#3))) ∨
    (opcodeOf w = 0x63#7 ∧ (funct3Of w ≠ 0b000#3 ∧ funct3Of w ≠ 0b001#3 ∧ funct3Of w ≠ 0b100#3 ∧ funct3Of w ≠ 0b101#3 ∧
      funct3Of w ≠ 0b110#3 ∧ funct3Of w ≠ 0b111#3)) ∨
    (opcodeOf w = 0x67#7 ∧ (funct3Of w ≠ 0b000#3)) ∨
    (opcodeOf w ≠ 0x03#7 ∧ opcodeOf w ≠ 0x13#7 ∧ opcodeOf w ≠ 0x17#7 ∧ opcodeOf w ≠ 0x23#7 ∧ opcodeOf w ≠ 0x33#7 ∧
      opcodeOf w ≠ 0x37#7 ∧ opcodeOf w ≠ 0x63#7 ∧ opcodeOf w ≠ 0x67#7 ∧ opcodeOf w ≠ 0x6F#7 ∧ opcodeOf w ≠ 0x73#7) := by
  by_cases o03 : opcodeOf w = 0x03#7
  · rw [decodeWord_of_loadClass o03] at h
    exact Or.inl ⟨o03, decodeLoad_error h⟩
  by_cases o13 : opcodeOf w = 0x13#7
  · rw [decodeWord_of_opImmClass o13] at h
    exact Or.inr (Or.inl ⟨o13, decodeOpImm_error h⟩)
  by_cases o17 : opcodeOf w = 0x17#7
  · rw [decodeWord_of_auipc o17] at h; cases h
  by_cases o23 : opcodeOf w = 0x23#7
  · rw [decodeWord_of_storeClass o23] at h
    exact Or.inr (Or.inr (Or.inl ⟨o23, decodeStore_error h⟩))
  by_cases o33 : opcodeOf w = 0x33#7
  · rw [decodeWord_of_opClass o33] at h
    exact Or.inr (Or.inr (Or.inr (Or.inl ⟨o33, decodeOp_error h⟩)))
  by_cases o37 : opcodeOf w = 0x37#7
  · rw [decodeWord_of_lui o37] at h; cases h
  by_cases o63 : opcodeOf w = 0x63#7
  · rw [decodeWord_of_branchClass o63] at h
    exact Or.inr (Or.inr (Or.inr (Or.inr (Or.inl ⟨o63, decodeBranch_error h⟩))))
  by_cases o67 : opcodeOf w = 0x67#7
  · rw [decodeWord_of_jalrClass o67] at h
    exact Or.inr (Or.inr (Or.inr (Or.inr (Or.inr (Or.inl ⟨o67, decodeJalr_error h⟩)))))
  by_cases o6F : opcodeOf w = 0x6F#7
  · rw [decodeWord_of_jal o6F] at h; cases h
  by_cases o73 : opcodeOf w = 0x73#7
  · rw [decodeWord_of_ecall o73] at h; cases h
  exact Or.inr (Or.inr (Or.inr (Or.inr (Or.inr (Or.inr (⟨o03, o13, o17, o23, o33, o37, o63, o67, o6F, o73⟩))))))

/-- ECALL is exactly the SYSTEM opcode (R78). -/
theorem decodeWord_ecall_iff : decodeWord w = .ok .ecall ↔ opcodeOf w = 0x73#7 := by
  refine ⟨fun h => ?_, decodeWord_of_ecall⟩
  have : ∀ i, decodeWord w = .ok i → i = .ecall → opcodeOf w = 0x73#7 := by
    intro i hi
    refine decodeWord_ok_cases (P := fun i => i = .ecall → opcodeOf w = 0x73#7) hi ?_ ?_ ?_ ?_ ?_ ?_ ?_ ?_ ?_ ?_ ?_ ?_ ?_ ?_ ?_ ?_ ?_ ?_ ?_ ?_ ?_ ?_ ?_ ?_ ?_ ?_ ?_ ?_ ?_ ?_ ?_ ?_ ?_ ?_ ?_ ?_ ?_ ?_ ?_ ?_ ?_ ?_ ?_ ?_ ?_ ?_
    all_goals intros; first | assumption | contradiction
  exact this _ h rfl

/-! ## The rows of the opcode table as conditions on fields (R74) -/

theorem matchesWord_iff_opcode {r : OpcodeRow} (hm : r.mask = 0x0000007F#32) (hp : r.pattern &&& r.mask = r.pattern) :
    r.matchesWord w = true ↔ opcodeOf w = opcodeOf r.pattern := by
  rw [hm] at hp
  simp only [OpcodeRow.matchesWord, beq_iff_eq, hm]
  exact ⟨fun h => opcodeOf_of_masked h (by decide), fun h => by rw [← hp, and_mask_opcode, and_mask_opcode, h]⟩

theorem matchesWord_iff_funct3 {r : OpcodeRow} (hm : r.mask = 0x0000707F#32) (hp : r.pattern &&& r.mask = r.pattern) :
    r.matchesWord w = true ↔ opcodeOf w = opcodeOf r.pattern ∧ funct3Of w = funct3Of r.pattern := by
  rw [hm] at hp
  simp only [OpcodeRow.matchesWord, beq_iff_eq, hm]
  exact ⟨fun h => ⟨opcodeOf_of_masked h (by decide), funct3Of_of_masked h (by decide)⟩,
    fun ⟨h, h3⟩ => by rw [← hp, and_mask_funct3, and_mask_funct3, h, h3]⟩

theorem matchesWord_iff_funct7 {r : OpcodeRow} (hm : r.mask = 0xFE00707F#32) (hp : r.pattern &&& r.mask = r.pattern) :
    r.matchesWord w = true ↔
      opcodeOf w = opcodeOf r.pattern ∧ funct3Of w = funct3Of r.pattern ∧ funct7Of w = funct7Of r.pattern := by
  rw [hm] at hp
  simp only [OpcodeRow.matchesWord, beq_iff_eq, hm]
  exact ⟨fun h => ⟨opcodeOf_of_masked h (by decide), funct3Of_of_masked h (by decide), funct7Of_of_masked h (by decide)⟩,
    fun ⟨h, h3, h7⟩ => by rw [← hp, and_mask_funct7, and_mask_funct7, h, h3, h7]⟩

end Sys2Proof
end

