-- ==== Sys2Proof/Laws/Memory.lean ====
section
/-!
SUPPORT. Memory: read after write, every operation keeps the canonical form, and which addresses an operation lists.
-/

namespace Sys2Proof.Machine

@[simp] theorem Memory.read_nil (a : Nat) : Memory.read [] a = Memory.background := rfl

/-! ## Reading back -/

theorem Memory.read_erase (m : Memory) (a b : Nat) :
    (m.erase a).read b = if b = a then Memory.background else m.read b := by
  induction m with
  | nil => simp [Memory.erase]
  | cons c m ih =>
    obtain ⟨k, v⟩ := c
    simp only [Memory.erase] at ih ⊢
    by_cases hk : k = a
    · subst hk
      simp only [List.filter, beq_self_eq_true, Bool.not_true, ih, Memory.read]
      split <;> rfl
    · simp only [List.filter, beq_eq_false_iff_ne.mpr hk, Bool.not_false, Memory.read, ih]
      split
      · next h => subst h; simp [hk]
      · rfl

theorem Memory.read_insert (m : Memory) (a b : Nat) (v : Byte) :
    (m.insert a v).read b = if b = a then v else m.read b := by
  induction m with
  | nil => simp [Memory.insert, Memory.read]
  | cons c m ih =>
    obtain ⟨k, w⟩ := c
    simp only [Memory.insert]
    split
    · simp [Memory.read]
    · split
      · next h => subst h; simp only [Memory.read]; split <;> rfl
      · next h1 h2 =>
        simp only [Memory.read, ih]
        split
        · next h => subst h; rw [if_neg (fun e => h2 e.symm)]
        · rfl

/-- Reading any address after a write. -/
theorem Memory.read_write (m : Memory) (a b : Nat) (v : Byte) :
    (m.write a v).read b = if b = a then v else m.read b := by
  unfold Memory.write
  split
  · next h => rw [Memory.read_erase, h]
  · exact Memory.read_insert m a b v

@[simp] theorem Memory.read_write_same (m : Memory) (a : Nat) (v : Byte) : (m.write a v).read a = v := by
  simp [Memory.read_write]

theorem Memory.read_write_other (m : Memory) {a b : Nat} (v : Byte) (h : b ≠ a) : (m.write a v).read b = m.read b := by
  simp [Memory.read_write, h]

/-- Reading any address after consecutive writes: inside them the byte written, elsewhere as before. -/
theorem Memory.read_writeBytes (bs : List Byte) : ∀ (m : Memory) (a b : Nat),
    (m.writeBytes a bs).read b = if h : a ≤ b ∧ b < a + bs.length then bs[b - a]'(by omega) else m.read b := by
  induction bs with
  | nil => intro m a b; simp only [Memory.writeBytes, List.length_nil]; rw [dif_neg (by omega)]
  | cons x bs ih =>
    intro m a b
    rw [Memory.writeBytes, ih, Memory.read_write]
    by_cases h1 : a + 1 ≤ b ∧ b < a + 1 + bs.length
    · rw [dif_pos h1, dif_pos (by simp only [List.length_cons]; omega)]
      simp [show b - a = b - (a + 1) + 1 by omega]
    · rw [dif_neg h1]
      by_cases h2 : b = a
      · subst h2; simp
      · rw [if_neg h2, dif_neg (by simp only [List.length_cons]; omega)]

/-- Outside the bytes written memory reads as before. -/
theorem Memory.read_writeBytes_outside (bs : List Byte) (m : Memory) {a b : Nat} (h : b < a ∨ a + bs.length ≤ b) :
    (m.writeBytes a bs).read b = m.read b := by
  rw [Memory.read_writeBytes, dif_neg (by omega)]

@[simp] theorem bytesOf_length (w : Width) (v : BitVec w.bits) : (bytesOf w v).length = w.bytes := by
  cases w <;> rfl

/-- A store leaves every byte outside its own alone (R45). -/
theorem Memory.read_store_outside (m : Memory) (w : Width) (v : BitVec w.bits) {a b : Nat}
    (h : b < a ∨ a + w.bytes ≤ b) : (m.store a w v).read b = m.read b :=
  Memory.read_writeBytes_outside _ _ (by simpa using h)

/-- Every byte after a store. -/
theorem Memory.read_store (m : Memory) (a : Nat) (w : Width) (v : BitVec w.bits) (b : Nat) :
    (m.store a w v).read b
      = if h : a ≤ b ∧ b < a + w.bytes then (bytesOf w v)[b - a]'(by simp; omega) else m.read b := by
  unfold Memory.store
  rw [Memory.read_writeBytes]
  simp

/-- A halfword is its two bytes, a word its four. -/
theorem half_of_bytes (v : BitVec 16) : (v.extractLsb' 8 8 ++ v.extractLsb' 0 8 : BitVec 16) = v := by
  apply BitVec.eq_of_getLsbD_eq
  intro i hi
  simp only [BitVec.getLsbD_append, BitVec.getLsbD_extractLsb']
  split
  · simp_all
  · next h => simp only [show i - 8 < 8 by omega, decide_true, Bool.true_and]; congr 1; omega

theorem word_of_bytes (v : BitVec 32) :
    (v.extractLsb' 24 8 ++ v.extractLsb' 16 8 ++ v.extractLsb' 8 8 ++ v.extractLsb' 0 8 : BitVec 32) = v := by
  apply BitVec.eq_of_getLsbD_eq
  intro i hi
  simp only [BitVec.getLsbD_append, BitVec.getLsbD_extractLsb']
  split
  · simp_all
  · split
    · next h => simp only [h, decide_true, Bool.true_and]; congr 1; omega
    · split
      · next h => simp only [h, decide_true, Bool.true_and]; congr 1; omega
      · next h => simp only [show i - 8 - 8 - 8 < 8 by omega, decide_true, Bool.true_and]; congr 1; omega

/-- A load of what was just stored at the same address and width (R53). -/
theorem Memory.load_store (m : Memory) (a : Nat) (w : Width) (v : BitVec w.bits) : (m.store a w v).load a w = v := by
  cases w with
  | byte => simp [Memory.load, Memory.store, bytesOf, Memory.writeBytes]
  | half =>
    simp only [Memory.load, Memory.store, bytesOf, Memory.writeBytes, Memory.read_write]
    rw [if_pos trivial, if_neg (by omega), if_pos trivial]
    exact half_of_bytes v
  | word =>
    simp only [Memory.load, Memory.store, bytesOf, Memory.writeBytes, Memory.read_write]
    have h3 : a + 3 = a + 1 + 1 + 1 := rfl
    have h2 : a + 2 = a + 1 + 1 := rfl
    have n1 : a ≠ a + 1 := by omega
    have n2 : a ≠ a + 1 + 1 := by omega
    have n3 : a ≠ a + 1 + 1 + 1 := by omega
    have n4 : a + 1 ≠ a + 1 + 1 := by omega
    have n5 : a + 1 ≠ a + 1 + 1 + 1 := by omega
    have n6 : a + 1 + 1 ≠ a + 1 + 1 + 1 := by omega
    simp only [h2, h3, n1, n2, n3, n4, n5, n6, if_true, if_false]
    exact word_of_bytes v

/-- What a load reads depends on its own bytes only. -/
theorem Memory.load_congr {m m' : Memory} {a : Nat} {w : Width}
    (h : ∀ b, a ≤ b → b < a + w.bytes → m.read b = m'.read b) : m.load a w = m'.load a w := by
  cases w <;> simp only [Width.bytes] at h
  · exact h a (by omega) (by omega)
  · simp only [Memory.load]; rw [h a (by omega) (by omega), h (a + 1) (by omega) (by omega)]
  · simp only [Memory.load]
    rw [h a (by omega) (by omega), h (a + 1) (by omega) (by omega), h (a + 2) (by omega) (by omega),
      h (a + 3) (by omega) (by omega)]

/-! ## The canonical form -/

theorem Memory.wfFrom_mono {m : Memory} {lo lo' : Nat} (hle : lo' ≤ lo) (h : Memory.wfFrom lo m = true) :
    Memory.wfFrom lo' m = true := by
  cases m with
  | nil => rfl
  | cons c m =>
    simp only [Memory.wfFrom, Bool.and_eq_true, decide_eq_true_eq] at h ⊢
    exact ⟨⟨by omega, h.1.2⟩, h.2⟩

theorem Memory.wfFrom_erase {m : Memory} : ∀ {lo : Nat} (a : Nat), Memory.wfFrom lo m = true →
    Memory.wfFrom lo (m.erase a) = true := by
  induction m with
  | nil => intro lo a h; exact h
  | cons c m ih =>
    intro lo a h
    obtain ⟨k, v⟩ := c
    simp only [Memory.wfFrom, Bool.and_eq_true, decide_eq_true_eq] at h
    have ih' := ih a h.2
    simp only [Memory.erase] at ih' ⊢
    by_cases hk : k = a
    · simp only [List.filter, hk, beq_self_eq_true, Bool.not_true]
      exact Memory.wfFrom_mono (by omega) ih'
    · simp only [List.filter, beq_eq_false_iff_ne.mpr hk, Bool.not_false, Memory.wfFrom, ih', h.1.1, h.1.2,
        decide_true, Bool.and_self]

theorem Memory.wfFrom_insert {m : Memory} : ∀ {lo : Nat} {a : Nat} {v : Byte}, v ≠ Memory.background → lo ≤ a →
    Memory.wfFrom lo m = true → Memory.wfFrom lo (m.insert a v) = true := by
  induction m with
  | nil => intro lo a v hv hlo _; simp [Memory.insert, Memory.wfFrom, hv, hlo]
  | cons c m ih =>
    intro lo a v hv hlo h
    obtain ⟨k, w⟩ := c
    simp only [Memory.wfFrom, Bool.and_eq_true, decide_eq_true_eq] at h
    simp only [Memory.insert]
    split
    · next hlt =>
      have hka : a + 1 ≤ k := hlt
      simp [Memory.wfFrom, hv, hlo, hka, h.1.2, h.2] at *
    · split
      · next _ he => subst he; simp [Memory.wfFrom, hv, hlo, h.2]
      · next h1 h2 =>
        simp only [Memory.wfFrom, h.1.1, h.1.2, decide_true, Bool.and_self, Bool.true_and]
        exact ih hv (by omega) h.2

/-- A write keeps the canonical form. -/
theorem Memory.wf_write {m : Memory} (a : Nat) (v : Byte) (h : m.wf = true) : (m.write a v).wf = true := by
  unfold Memory.write
  split
  · exact Memory.wfFrom_erase a h
  · next hv => exact Memory.wfFrom_insert hv (Nat.zero_le a) h

theorem Memory.wf_writeBytes (bs : List Byte) : ∀ {m : Memory} (a : Nat), m.wf = true → (m.writeBytes a bs).wf = true := by
  induction bs with
  | nil => intro m a h; exact h
  | cons b bs ih => intro m a h; exact ih (a + 1) (Memory.wf_write a b h)

/-- A store keeps the canonical form. -/
theorem Memory.wf_store {m : Memory} (a : Nat) (w : Width) (v : BitVec w.bits) (h : m.wf = true) :
    (m.store a w v).wf = true := Memory.wf_writeBytes _ a h

/-! ## Which addresses are listed -/

theorem Memory.mem_write {m : Memory} {a : Nat} {v : Byte} {c : Host.Cell} (h : c ∈ m.write a v) :
    c ∈ m ∨ c.1 = a := by
  unfold Memory.write at h
  split at h
  · exact .inl (List.mem_filter.mp h).1
  · clear * - h
    induction m with
    | nil => simp only [Memory.insert, List.mem_singleton] at h; exact .inr (by rw [h])
    | cons d m ih =>
      obtain ⟨k, w⟩ := d
      simp only [Memory.insert] at h
      split at h
      · rcases List.mem_cons.mp h with h | h
        · exact .inr (by rw [h])
        · exact .inl h
      · split at h
        · rcases List.mem_cons.mp h with h | h
          · exact .inr (by rw [h])
          · exact .inl (List.mem_cons_of_mem _ h)
        · rcases List.mem_cons.mp h with h | h
          · exact .inl (h ▸ List.mem_cons_self)
          · exact (ih h).imp (List.mem_cons_of_mem _) id

/-- A store lists no address but those it had and the store's own. -/
theorem Memory.mem_writeBytes (bs : List Byte) : ∀ {m : Memory} {a : Nat} {c : Host.Cell}, c ∈ m.writeBytes a bs →
    c ∈ m ∨ (a ≤ c.1 ∧ c.1 < a + bs.length) := by
  induction bs with
  | nil => intro m a c h; exact .inl h
  | cons b bs ih =>
    intro m a c h
    rcases ih h with h | h
    · rcases Memory.mem_write h with h | h
      · exact .inl h
      · exact .inr (by simp only [List.length_cons]; omega)
    · exact .inr (by simp only [List.length_cons]; omega)

/-- The addresses of a range that exists exist. -/
theorem addressExists_of_range {c : Config} : ∀ {n a : Nat}, rangeExists c a n = true → ∀ {b : Nat}, a ≤ b → b < a + n →
    addressExists c b = true := by
  intro n
  induction n with
  | zero => intro a _ b h1 h2; omega
  | succ n ih =>
    intro a h b h1 h2
    simp only [rangeExists, Bool.and_eq_true] at h
    by_cases hb : b = a
    · exact hb ▸ h.1
    · exact ih h.2 (by omega) (by omega)

/-- A range exists when its addresses do. -/
theorem rangeExists_of_addresses {c : Config} : ∀ {n a : Nat}, (∀ b, a ≤ b → b < a + n → addressExists c b = true) →
    rangeExists c a n = true := by
  intro n
  induction n with
  | zero => intro a _; rfl
  | succ n ih =>
    intro a h
    simp only [rangeExists, Bool.and_eq_true]
    exact ⟨h a (by omega) (by omega), ih fun b h1 h2 => h b (by omega) (by omega)⟩

theorem rangeExists_iff {c : Config} {n a : Nat} :
    rangeExists c a n = true ↔ ∀ b, a ≤ b → b < a + n → addressExists c b = true :=
  ⟨fun h _ h1 h2 => addressExists_of_range h h1 h2, rangeExists_of_addresses⟩

end Sys2Proof.Machine
end

