-- ==== Sys2Proof/Laws/Operands.lean ====
section
/-!
SUPPORT. The operand forms as numbers: extended immediates as integers and bit by bit, the shift amount, loads and stored bytes as
little-endian sums.
-/

namespace Sys2Proof.Machine

/-! ## Immediates (R65 to R71) -/

theorem immI_toInt (imm : BitVec 12) : (immI imm).toInt = imm.toInt := BitVec.toInt_signExtend_of_le (by decide)
theorem immS_toInt (imm : BitVec 12) : (immS imm).toInt = imm.toInt := BitVec.toInt_signExtend_of_le (by decide)
theorem immB_toInt (offset : BitVec 13) : (immB offset).toInt = offset.toInt := BitVec.toInt_signExtend_of_le (by decide)
theorem immJ_toInt (offset : BitVec 21) : (immJ offset).toInt = offset.toInt := BitVec.toInt_signExtend_of_le (by decide)
theorem immU_toNat (imm20 : BitVec 20) : (immU imm20).toNat = imm20.toNat * 2 ^ 12 := by
  simp only [immU, toNat_append_eq, BitVec.toNat_ofNat]; omega

/-- A sign-extended value, bit by bit: its own bits, then copies of its top bit. -/
theorem getLsbD_signExtend_min {n : Nat} (x : BitVec (n + 1)) {k : Nat} (hk : k < 32) :
    (x.signExtend 32).getLsbD k = x.getLsbD (min k n) := by
  simp only [BitVec.getLsbD_signExtend, hk, decide_true, Bool.true_and]
  split
  · rw [Nat.min_eq_left (by omega)]
  · rw [Nat.min_eq_right (by omega), BitVec.msb_eq_getLsbD_last]; rfl

/-! ## The shift amount (R71, R106) -/

theorem shiftAmount_eq (b : Word) : shiftAmount b = b.toNat % 32 := by
  simp only [shiftAmount, toNat_extractLsb'_eq]; omega

theorem shiftAmount_immShift (f7 : BitVec 7) (shamt : BitVec 5) : shiftAmount (immShift f7 shamt) = shamt.toNat := by
  have h : (immShift f7 shamt).extractLsb' 0 5 = shamt := by
    apply BitVec.eq_of_getLsbD_eq
    intro i hi
    simp only [BitVec.getLsbD_extractLsb', hi, immShift, immI, BitVec.getLsbD_signExtend, BitVec.getLsbD_append, Nat.zero_add]
    simp [show i < 32 by omega, show i < 12 by omega]
  rw [shiftAmount, h]

/-! ## Word arithmetic as integers -/

theorem toNat_eq_toInt_emod (x : Word) : (x.toNat : Int) = x.toInt % 2 ^ 32 := by
  have h1 := BitVec.toInt_eq_toNat_cond x
  have h2 := x.isLt
  split at h1 <;> omega

/-- A sum of words as the modular sum of an unsigned and a signed reading: addresses and targets. -/
theorem toNat_add_eq_emod (a b : Word) : ((a + b).toNat : Int) = (a.toNat + b.toInt) % 2 ^ 32 := by
  rw [BitVec.toNat_add]
  push_cast
  rw [toNat_eq_toInt_emod b]
  simp [Int.add_emod]

theorem add_eq_ofInt (a b : Word) : a + b = BitVec.ofInt 32 (a.toNat + b.toInt) := by
  apply BitVec.eq_of_toNat_eq
  have h := toNat_add_eq_emod a b
  rw [BitVec.toNat_ofInt]
  omega

/-! ## Loads and stores as little-endian sums (R42) -/

theorem Memory.load_byte_toNat (m : Memory) (a : Nat) : (m.load a .byte).toNat = (m.read a).toNat := rfl
theorem Memory.load_half_toNat (m : Memory) (a : Nat) :
    (m.load a .half).toNat = (m.read a).toNat + 2 ^ 8 * (m.read (a + 1)).toNat := by
  simp only [Memory.load, toNat_append_eq]; omega
theorem Memory.load_word_toNat (m : Memory) (a : Nat) :
    (m.load a .word).toNat = (m.read a).toNat + 2 ^ 8 * (m.read (a + 1)).toNat + 2 ^ 16 * (m.read (a + 2)).toNat
      + 2 ^ 24 * (m.read (a + 3)).toNat := by
  simp only [Memory.load, toNat_append_eq]; omega

/-- The bytes a store of `x` writes: byte `k` is bits `8k+7 .. 8k` of `x` (R45). -/
theorem bytesOf_truncated (w : Width) (x : Word) (k : Nat) (hk : k < (bytesOf w (truncated w x)).length) :
    (bytesOf w (truncated w x))[k] = BitVec.ofNat 8 (x.toNat / 2 ^ (8 * k)) := by
  apply BitVec.eq_of_toNat_eq
  have hk' := hk
  rw [bytesOf_length] at hk'
  cases w with
  | byte =>
    obtain rfl : k = 0 := by simp only [Width.bytes] at hk'; omega
    simp [bytesOf, truncated]
  | half =>
    have h : k = 0 ∨ k = 1 := by simp only [Width.bytes] at hk'; omega
    rcases h with rfl | rfl <;>
      simp only [bytesOf, truncated, List.getElem_cons_zero, List.getElem_cons_succ, toNat_extractLsb'_eq,
        BitVec.toNat_setWidth, BitVec.toNat_ofNat, Width.bits] <;> omega
  | word =>
    have h : k = 0 ∨ k = 1 ∨ k = 2 ∨ k = 3 := by simp only [Width.bytes] at hk'; omega
    rcases h with rfl | rfl | rfl | rfl <;>
      simp only [bytesOf, truncated, List.getElem_cons_zero, List.getElem_cons_succ, toNat_extractLsb'_eq,
        BitVec.toNat_setWidth, BitVec.toNat_ofNat, Width.bits] <;> omega

end Sys2Proof.Machine
end

