-- ==== Sys2Proof/Laws/Registers.lean ====
section
/-!
SUPPORT. The register ports: register 0 reads 0 whatever was written (spec/10_state.md rules R11, R12), every other register reads
what was last written to it.
-/

namespace Sys2Proof.Machine

@[simp] theorem RegFile.read_zero (f : RegFile) : f.read 0 = 0x00000000#32 := rfl

@[simp] theorem RegFile.write_zero (f : RegFile) (v : Word) : f.write 0 v = f := rfl

/-- Reading any register after a write. -/
theorem RegFile.read_write (f : RegFile) (r q : Reg) (v : Word) :
    (f.write r v).read q = if q ≠ 0 ∧ q = r then v else f.read q := by
  obtain ⟨n, hn⟩ := r
  obtain ⟨k, hk⟩ := q
  cases n with
  | zero =>
    simp only [RegFile.write]
    split
    · next h => exact absurd h.2 h.1
    · rfl
  | succ n =>
    cases k with
    | zero => simp [RegFile.read]
    | succ k =>
      simp only [RegFile.write, RegFile.read, Vector.getElem_set]
      by_cases h : n = k
      · subst h; simp [Fin.ext_iff]
      · rw [if_neg h, if_neg]
        rintro ⟨-, he⟩
        simp only [Fin.mk.injEq] at he
        omega

/-- Register files that read alike are equal. -/
theorem RegFile.ext_read {f g : RegFile} (h : ∀ r : Reg, f.read r = g.read r) : f = g := by
  apply Vector.ext
  intro i hi
  exact h ⟨i + 1, by omega⟩

theorem State.readReg_writeReg (s : State) (r q : Reg) (v : Word) :
    (s.writeReg r v).readReg q = if q ≠ 0 ∧ q = r then v else s.readReg q := RegFile.read_write s.regs r q v

@[simp] theorem State.readReg_zero (s : State) : s.readReg 0 = 0x00000000#32 := rfl

end Sys2Proof.Machine
end

