-- ==== Sys2Proof/Laws/State.lean ====
section
/-!
SUPPORT. One lemma per field per named update of State, each true by rfl, so that no later proof unfolds a record update.
-/

namespace Sys2Proof.Machine

/-! ## writeReg -/

@[simp] theorem State.writeReg_pc (s : State) (r : Reg) (v : Word) : (s.writeReg r v).pc = s.pc := rfl
@[simp] theorem State.writeReg_regs (s : State) (r : Reg) (v : Word) : (s.writeReg r v).regs = s.regs.write r v := rfl
@[simp] theorem State.writeReg_mem (s : State) (r : Reg) (v : Word) : (s.writeReg r v).mem = s.mem := rfl
@[simp] theorem State.writeReg_run (s : State) (r : Reg) (v : Word) : (s.writeReg r v).run = s.run := rfl
@[simp] theorem State.writeReg_trace (s : State) (r : Reg) (v : Word) : (s.writeReg r v).trace = s.trace := rfl
@[simp] theorem State.writeReg_cfg (s : State) (r : Reg) (v : Word) : (s.writeReg r v).cfg = s.cfg := rfl

/-! ## emit -/

@[simp] theorem State.emit_pc (s : State) (n : Notification) : (s.emit n).pc = s.pc := rfl
@[simp] theorem State.emit_regs (s : State) (n : Notification) : (s.emit n).regs = s.regs := rfl
@[simp] theorem State.emit_mem (s : State) (n : Notification) : (s.emit n).mem = s.mem := rfl
@[simp] theorem State.emit_run (s : State) (n : Notification) : (s.emit n).run = s.run := rfl
@[simp] theorem State.emit_trace (s : State) (n : Notification) : (s.emit n).trace = s.trace ++ [n] := rfl
@[simp] theorem State.emit_cfg (s : State) (n : Notification) : (s.emit n).cfg = s.cfg := rfl

/-! ## placeInstruction -/

@[simp] theorem State.placeInstruction_pc (s : State) (w : Word) : (s.placeInstruction w).pc = s.pc &&& 0xFFFFFFFC#32 := rfl
@[simp] theorem State.placeInstruction_regs (s : State) (w : Word) : (s.placeInstruction w).regs = s.regs := rfl
@[simp] theorem State.placeInstruction_mem (s : State) (w : Word) : (s.placeInstruction w).mem = s.mem.store (s.pc &&& 0xFFFFFFFC#32).toNat .word w := rfl
@[simp] theorem State.placeInstruction_run (s : State) (w : Word) : (s.placeInstruction w).run = .running := rfl
@[simp] theorem State.placeInstruction_trace (s : State) (w : Word) : (s.placeInstruction w).trace = s.trace := rfl
@[simp] theorem State.placeInstruction_cfg (s : State) (w : Word) : (s.placeInstruction w).cfg = withRange s.cfg (s.pc &&& 0xFFFFFFFC#32).toNat 4 := rfl

/-! ## Register reads see the register file only -/

@[simp] theorem State.readReg_setPc (s : State) (p : Word) (r : Reg) : ({ s with pc := p } : State).readReg r = s.readReg r := rfl
@[simp] theorem State.readReg_setMem (s : State) (m : Memory) (p : Word) (r : Reg) :
    ({ s with mem := m, pc := p } : State).readReg r = s.readReg r := rfl
@[simp] theorem State.readReg_emit (s : State) (n : Notification) (r : Reg) : (s.emit n).readReg r = s.readReg r := rfl
@[simp] theorem State.readReg_placeInstruction (s : State) (w : Word) (r : Reg) :
    (s.placeInstruction w).readReg r = s.readReg r := rfl

/-! ## State.ofConfig -/

@[simp] theorem State.ofConfig_pc (c : Config) : (State.ofConfig c).pc = c.pcReset := rfl
@[simp] theorem State.ofConfig_regs (c : Config) : (State.ofConfig c).regs = c.regInit := rfl
@[simp] theorem State.ofConfig_mem (c : Config) : (State.ofConfig c).mem = c.memInit := rfl
@[simp] theorem State.ofConfig_run (c : Config) : (State.ofConfig c).run = .running := rfl
@[simp] theorem State.ofConfig_trace (c : Config) : (State.ofConfig c).trace = [] := rfl
@[simp] theorem State.ofConfig_cfg (c : Config) : (State.ofConfig c).cfg = c := rfl

end Sys2Proof.Machine
end

