-- ==== Sys2Proof/Laws/Ops.lean ====
section
/-!
SUPPORT. For each shared operation, once, everything it can do. The inversion of exec, exec_next, is what every claim over all
instructions is derived from.
-/

namespace Sys2Proof.Machine

/-! ## The check of an access (R44 to R47, R218) -/

theorem accessFault_none_iff {s : State} {kind : AccessKind} {a : Word} {w : Width} :
    accessFault s kind a w = none ↔ a.toNat % w.bytes = 0 ∧ rangeExists s.cfg a.toNat w.bytes = true := by
  unfold accessFault
  split
  · simp_all
  · split <;> simp_all

theorem accessFault_misaligned {s : State} {kind : AccessKind} {a : Word} {w : Width} (h : ¬ a.toNat % w.bytes = 0) :
    accessFault s kind a w = some (.memoryAccess kind .misaligned a w s.pc) := if_pos h

theorem accessFault_outOfRange {s : State} {kind : AccessKind} {a : Word} {w : Width} (h : a.toNat % w.bytes = 0)
    (hr : rangeExists s.cfg a.toNat w.bytes = false) :
    accessFault s kind a w = some (.memoryAccess kind .outOfRange a w s.pc) := by
  simp [accessFault, h, hr]

/-- A byte access is never misaligned (R46). -/
theorem aligned_byte (a : Word) : a.toNat % Width.byte.bytes = 0 := Nat.mod_one _

theorem memRead_of_fault {s : State} {kind : AccessKind} {a : Word} {w : Width} {f : Fault}
    (h : accessFault s kind a w = some f) : memRead s kind a w = .error f := by simp [memRead, h]

theorem memRead_of_none {s : State} {kind : AccessKind} {a : Word} {w : Width} (h : accessFault s kind a w = none) :
    memRead s kind a w = .ok (s.mem.load a.toNat w) := by simp [memRead, h]

theorem memWrite_of_fault {s : State} {a : Word} {w : Width} {v : BitVec w.bits} {f : Fault}
    (h : accessFault s .store a w = some f) : memWrite s a w v = .error f := by simp [memWrite, h]

theorem memWrite_of_none {s : State} {a : Word} {w : Width} {v : BitVec w.bits} (h : accessFault s .store a w = none) :
    memWrite s a w v = .ok (s.mem.store a.toNat w v) := by simp [memWrite, h]

/-! ## Loads and stores -/

theorem loadOp_of_none {w : Width} {extend : BitVec w.bits → Word} {rd rs1 : Reg} {imm : Word} {s : State}
    (h : accessFault s .load (s.effectiveAddress rs1 imm) w = none) :
    loadOp w extend rd rs1 imm s
      = commitReg rd (extend (s.mem.load (s.effectiveAddress rs1 imm).toNat w)) s.pcPlus4 s := by
  simp [loadOp, memRead_of_none h]

theorem loadOp_of_fault {w : Width} {extend : BitVec w.bits → Word} {rd rs1 : Reg} {imm : Word} {s : State} {f : Fault}
    (h : accessFault s .load (s.effectiveAddress rs1 imm) w = some f) : loadOp w extend rd rs1 imm s = .fault f := by
  simp [loadOp, memRead_of_fault h, raise]

theorem storeOp_of_none {w : Width} {rs2 rs1 : Reg} {imm : Word} {s : State}
    (h : accessFault s .store (s.effectiveAddress rs1 imm) w = none) :
    storeOp w rs2 rs1 imm s
      = commitStore (s.mem.store (s.effectiveAddress rs1 imm).toNat w (truncated w (s.readReg rs2))) s := by
  simp [storeOp, memWrite_of_none h]

theorem storeOp_of_fault {w : Width} {rs2 rs1 : Reg} {imm : Word} {s : State} {f : Fault}
    (h : accessFault s .store (s.effectiveAddress rs1 imm) w = some f) : storeOp w rs2 rs1 imm s = .fault f := by
  simp [storeOp, memWrite_of_fault h, raise]

theorem loadOp_next {w : Width} {extend : BitVec w.bits → Word} {rd rs1 : Reg} {imm : Word} {s t : State}
    (h : loadOp w extend rd rs1 imm s = .next t) :
    accessFault s .load (s.effectiveAddress rs1 imm) w = none ∧
      t = { s.writeReg rd (extend (s.mem.load (s.effectiveAddress rs1 imm).toNat w)) with pc := s.pcPlus4 } := by
  cases hf : accessFault s .load (s.effectiveAddress rs1 imm) w with
  | some f => rw [loadOp_of_fault hf] at h; cases h
  | none => rw [loadOp_of_none hf] at h; cases h; exact ⟨rfl, rfl⟩

theorem storeOp_next {w : Width} {rs2 rs1 : Reg} {imm : Word} {s t : State} (h : storeOp w rs2 rs1 imm s = .next t) :
    accessFault s .store (s.effectiveAddress rs1 imm) w = none ∧
      t = { s with
        mem := s.mem.store (s.effectiveAddress rs1 imm).toNat w (truncated w (s.readReg rs2)), pc := s.pcPlus4 } := by
  cases hf : accessFault s .store (s.effectiveAddress rs1 imm) w with
  | some f => rw [storeOp_of_fault hf] at h; cases h
  | none => rw [storeOp_of_none hf] at h; cases h; exact ⟨rfl, rfl⟩

/-- A fault of an access is its own: of its kind, address and width, misaligned exactly where the address is. -/
theorem accessFault_some {s : State} {kind : AccessKind} {a : Word} {w : Width} {f : Fault} (h : accessFault s kind a w = some f) :
    ∃ r, f = .memoryAccess kind r a w s.pc ∧ (r = .misaligned ↔ a.toNat % w.bytes ≠ 0) := by
  unfold accessFault at h
  split at h
  · next h1 => cases h; exact ⟨_, rfl, by simpa using h1⟩
  · next h1 =>
    split at h
    · cases h; exact ⟨_, rfl, by simpa using h1⟩
    · cases h

theorem loadOp_fault {w : Width} {extend : BitVec w.bits → Word} {rd rs1 : Reg} {imm : Word} {s : State} {f : Fault}
    (h : loadOp w extend rd rs1 imm s = .fault f) : accessFault s .load (s.effectiveAddress rs1 imm) w = some f := by
  cases hf : accessFault s .load (s.effectiveAddress rs1 imm) w with
  | some g => rw [loadOp_of_fault hf] at h; cases h; rfl
  | none => rw [loadOp_of_none hf] at h; cases h

theorem storeOp_fault {w : Width} {rs2 rs1 : Reg} {imm : Word} {s : State} {f : Fault}
    (h : storeOp w rs2 rs1 imm s = .fault f) : accessFault s .store (s.effectiveAddress rs1 imm) w = some f := by
  cases hf : accessFault s .store (s.effectiveAddress rs1 imm) w with
  | some g => rw [storeOp_of_fault hf] at h; cases h; rfl
  | none => rw [storeOp_of_none hf] at h; cases h

/-! ## What an instruction can do -/

/-- What a cycle in Running commits, for the instruction it runs. -/
inductive Commit (i : Instr) (s : State) : State → Prop where
  /-- A write of the destination register. -/
  | reg (rd : Reg) (v target : Word) (hd : destination i = some rd) (ht : transfersControl i = false → target = s.pcPlus4) :
      Commit i s { s.writeReg rd v with pc := target }
  /-- No more than the program counter: a branch. -/
  | pc (target : Word) (ht : transfersControl i = true) : Commit i s { s with pc := target }
  /-- A store whose access is aligned and in range. -/
  | store (a : Word) (w : Width) (v : BitVec w.bits) (ha : dataAccess s i = some (.store, a, w))
      (h : accessFault s .store a w = none) :
      Commit i s { s with mem := s.mem.store a.toNat w v, pc := s.pcPlus4 }
  /-- ECALL. -/
  | ecall (h : i = .ecall) :
      Commit i s { s.emit (.ecallNotify s.pc s.regs) with run := .haltPending, pc := s.pcPlus4 }

/-- The inversion of exec: if it answers a next state, that state is one of four commits. -/
theorem exec_next {i : Instr} {s t : State} (h : exec i s = .next t) : Commit i s t := by
  cases i with
  | add | sub | sll | slt | sltu | xor | srl | sra | or | and | mul | mulh | mulhsu | mulhu | div | divu | rem | remu
  | addi | slti | sltiu | xori | ori | andi | slli | srli | srai | lui | auipc => cases h; exact .reg _ _ _ rfl fun _ => rfl
  | jal | jalr => cases h; exact .reg _ _ _ rfl nofun
  | lb | lh | lw | lbu | lhu => obtain ⟨-, rfl⟩ := loadOp_next h; exact .reg _ _ _ rfl fun _ => rfl
  | sb | sh | sw => obtain ⟨hn, rfl⟩ := storeOp_next h; exact .store _ _ _ rfl hn
  | beq | bne | blt | bge | bltu | bgeu => cases h; exact .pc _ rfl
  | ecall => cases h; exact .ecall rfl

theorem loadOp_not_refused {w : Width} {extend : BitVec w.bits → Word} {rd rs1 : Reg} {imm : Word} {s : State} {r : Refusal} :
    loadOp w extend rd rs1 imm s ≠ .refused r := by
  unfold loadOp raise commitReg; split <;> simp

theorem storeOp_not_refused {w : Width} {rs2 rs1 : Reg} {imm : Word} {s : State} {r : Refusal} :
    storeOp w rs2 rs1 imm s ≠ .refused r := by
  unfold storeOp raise commitStore; split <;> simp

/-- Every instruction has a meaning: exec never refuses. -/
theorem exec_not_refused (i : Instr) (s : State) (r : Refusal) : exec i s ≠ .refused r := by
  cases i with
  | lb | lh | lw | lbu | lhu => exact loadOp_not_refused
  | sb | sh | sw => exact storeOp_not_refused
  | _ => exact nofun

end Sys2Proof.Machine
end

