-- ==== Sys2Proof/Laws/PerInstr.lean ====
section
/-!
SUPPORT. Facts stated of every instruction as syntax. Family TableRow: the instruction's encoding is a word of the row of the opcode
table that bears its name (spec/30_encoding.md rules R74, R75).
-/

-- one theorem at a time: the forty-six are cheap, and their threads together ask for much memory
set_option Elab.async false

namespace Sys2Proof.Laws.TableRow

/-- The row of the instruction's name matches its encoding. -/
def Statement (i : Instr) : Prop := ∃ r ∈ opcodeTable, r.mnemonic = i.mnemonic ∧ r.matchesWord (encode i) = true

/-- A row at a known place of the table, with one of its three masks, matches a word whose fields are the row's. -/
theorem of_opcode {i : Instr} (k : Fin opcodeTable.length) (hn : (opcodeTable.get k).mnemonic = i.mnemonic)
    (hm : (opcodeTable.get k).mask = 0x0000007F#32)
    (hf : (opcodeTable.get k).pattern = 0#25 ++ opcodeOf (encode i)) : Statement i :=
  ⟨opcodeTable.get k, List.get_mem .., hn, by simp only [OpcodeRow.matchesWord, hm, and_mask_opcode, hf, beq_self_eq_true]⟩

theorem of_funct3 {i : Instr} (k : Fin opcodeTable.length) (hn : (opcodeTable.get k).mnemonic = i.mnemonic)
    (hm : (opcodeTable.get k).mask = 0x0000707F#32)
    (hf : (opcodeTable.get k).pattern = 0#17 ++ funct3Of (encode i) ++ 0#5 ++ opcodeOf (encode i)) : Statement i :=
  ⟨opcodeTable.get k, List.get_mem .., hn, by simp only [OpcodeRow.matchesWord, hm, and_mask_funct3, hf, beq_self_eq_true]⟩

theorem of_funct7 {i : Instr} (k : Fin opcodeTable.length) (hn : (opcodeTable.get k).mnemonic = i.mnemonic)
    (hm : (opcodeTable.get k).mask = 0xFE00707F#32)
    (hf : (opcodeTable.get k).pattern
      = funct7Of (encode i) ++ 0#10 ++ funct3Of (encode i) ++ 0#5 ++ opcodeOf (encode i)) : Statement i :=
  ⟨opcodeTable.get k, List.get_mem .., hn, by simp only [OpcodeRow.matchesWord, hm, and_mask_funct7, hf, beq_self_eq_true]⟩

theorem add (rd rs1 rs2 : Reg) : Statement (.add rd rs1 rs2) :=
  of_funct7 ⟨0, by decide⟩ rfl rfl (by simp only [encode]; simp; rfl)
theorem sub (rd rs1 rs2 : Reg) : Statement (.sub rd rs1 rs2) :=
  of_funct7 ⟨1, by decide⟩ rfl rfl (by simp only [encode]; simp; rfl)
theorem sll (rd rs1 rs2 : Reg) : Statement (.sll rd rs1 rs2) :=
  of_funct7 ⟨2, by decide⟩ rfl rfl (by simp only [encode]; simp; rfl)
theorem slt (rd rs1 rs2 : Reg) : Statement (.slt rd rs1 rs2) :=
  of_funct7 ⟨3, by decide⟩ rfl rfl (by simp only [encode]; simp; rfl)
theorem sltu (rd rs1 rs2 : Reg) : Statement (.sltu rd rs1 rs2) :=
  of_funct7 ⟨4, by decide⟩ rfl rfl (by simp only [encode]; simp; rfl)
theorem xor (rd rs1 rs2 : Reg) : Statement (.xor rd rs1 rs2) :=
  of_funct7 ⟨5, by decide⟩ rfl rfl (by simp only [encode]; simp; rfl)
theorem srl (rd rs1 rs2 : Reg) : Statement (.srl rd rs1 rs2) :=
  of_funct7 ⟨6, by decide⟩ rfl rfl (by simp only [encode]; simp; rfl)
theorem sra (rd rs1 rs2 : Reg) : Statement (.sra rd rs1 rs2) :=
  of_funct7 ⟨7, by decide⟩ rfl rfl (by simp only [encode]; simp; rfl)
theorem or (rd rs1 rs2 : Reg) : Statement (.or rd rs1 rs2) :=
  of_funct7 ⟨8, by decide⟩ rfl rfl (by simp only [encode]; simp; rfl)
theorem and (rd rs1 rs2 : Reg) : Statement (.and rd rs1 rs2) :=
  of_funct7 ⟨9, by decide⟩ rfl rfl (by simp only [encode]; simp; rfl)
theorem mul (rd rs1 rs2 : Reg) : Statement (.mul rd rs1 rs2) :=
  of_funct7 ⟨10, by decide⟩ rfl rfl (by simp only [encode]; simp; rfl)
theorem mulh (rd rs1 rs2 : Reg) : Statement (.mulh rd rs1 rs2) :=
  of_funct7 ⟨11, by decide⟩ rfl rfl (by simp only [encode]; simp; rfl)
theorem mulhsu (rd rs1 rs2 : Reg) : Statement (.mulhsu rd rs1 rs2) :=
  of_funct7 ⟨12, by decide⟩ rfl rfl (by simp only [encode]; simp; rfl)
theorem mulhu (rd rs1 rs2 : Reg) : Statement (.mulhu rd rs1 rs2) :=
  of_funct7 ⟨13, by decide⟩ rfl rfl (by simp only [encode]; simp; rfl)
theorem div (rd rs1 rs2 : Reg) : Statement (.div rd rs1 rs2) :=
  of_funct7 ⟨14, by decide⟩ rfl rfl (by simp only [encode]; simp; rfl)
theorem divu (rd rs1 rs2 : Reg) : Statement (.divu rd rs1 rs2) :=
  of_funct7 ⟨15, by decide⟩ rfl rfl (by simp only [encode]; simp; rfl)
theorem rem (rd rs1 rs2 : Reg) : Statement (.rem rd rs1 rs2) :=
  of_funct7 ⟨16, by decide⟩ rfl rfl (by simp only [encode]; simp; rfl)
theorem remu (rd rs1 rs2 : Reg) : Statement (.remu rd rs1 rs2) :=
  of_funct7 ⟨17, by decide⟩ rfl rfl (by simp only [encode]; simp; rfl)
theorem addi (rd rs1 : Reg) (imm : BitVec 12) : Statement (.addi rd rs1 imm) :=
  of_funct3 ⟨18, by decide⟩ rfl rfl (by simp only [encode]; simp; rfl)
theorem slti (rd rs1 : Reg) (imm : BitVec 12) : Statement (.slti rd rs1 imm) :=
  of_funct3 ⟨19, by decide⟩ rfl rfl (by simp only [encode]; simp; rfl)
theorem sltiu (rd rs1 : Reg) (imm : BitVec 12) : Statement (.sltiu rd rs1 imm) :=
  of_funct3 ⟨20, by decide⟩ rfl rfl (by simp only [encode]; simp; rfl)
theorem xori (rd rs1 : Reg) (imm : BitVec 12) : Statement (.xori rd rs1 imm) :=
  of_funct3 ⟨21, by decide⟩ rfl rfl (by simp only [encode]; simp; rfl)
theorem ori (rd rs1 : Reg) (imm : BitVec 12) : Statement (.ori rd rs1 imm) :=
  of_funct3 ⟨22, by decide⟩ rfl rfl (by simp only [encode]; simp; rfl)
theorem andi (rd rs1 : Reg) (imm : BitVec 12) : Statement (.andi rd rs1 imm) :=
  of_funct3 ⟨23, by decide⟩ rfl rfl (by simp only [encode]; simp; rfl)
theorem slli (rd rs1 : Reg) (shamt : BitVec 5) : Statement (.slli rd rs1 shamt) :=
  of_funct7 ⟨24, by decide⟩ rfl rfl (by simp only [encode]; simp; rfl)
theorem srli (rd rs1 : Reg) (shamt : BitVec 5) : Statement (.srli rd rs1 shamt) :=
  of_funct7 ⟨25, by decide⟩ rfl rfl (by simp only [encode]; simp; rfl)
theorem srai (rd rs1 : Reg) (shamt : BitVec 5) : Statement (.srai rd rs1 shamt) :=
  of_funct7 ⟨26, by decide⟩ rfl rfl (by simp only [encode]; simp; rfl)
theorem lb (rd rs1 : Reg) (imm : BitVec 12) : Statement (.lb rd rs1 imm) :=
  of_funct3 ⟨27, by decide⟩ rfl rfl (by simp only [encode]; simp; rfl)
theorem lh (rd rs1 : Reg) (imm : BitVec 12) : Statement (.lh rd rs1 imm) :=
  of_funct3 ⟨28, by decide⟩ rfl rfl (by simp only [encode]; simp; rfl)
theorem lw (rd rs1 : Reg) (imm : BitVec 12) : Statement (.lw rd rs1 imm) :=
  of_funct3 ⟨29, by decide⟩ rfl rfl (by simp only [encode]; simp; rfl)
theorem lbu (rd rs1 : Reg) (imm : BitVec 12) : Statement (.lbu rd rs1 imm) :=
  of_funct3 ⟨30, by decide⟩ rfl rfl (by simp only [encode]; simp; rfl)
theorem lhu (rd rs1 : Reg) (imm : BitVec 12) : Statement (.lhu rd rs1 imm) :=
  of_funct3 ⟨31, by decide⟩ rfl rfl (by simp only [encode]; simp; rfl)
theorem sb (rs2 rs1 : Reg) (imm : BitVec 12) : Statement (.sb rs2 rs1 imm) :=
  of_funct3 ⟨32, by decide⟩ rfl rfl (by simp only [encode]; simp; rfl)
theorem sh (rs2 rs1 : Reg) (imm : BitVec 12) : Statement (.sh rs2 rs1 imm) :=
  of_funct3 ⟨33, by decide⟩ rfl rfl (by simp only [encode]; simp; rfl)
theorem sw (rs2 rs1 : Reg) (imm : BitVec 12) : Statement (.sw rs2 rs1 imm) :=
  of_funct3 ⟨34, by decide⟩ rfl rfl (by simp only [encode]; simp; rfl)
theorem beq (rs1 rs2 : Reg) (offset : BitVec 13) : Statement (.beq rs1 rs2 offset) :=
  of_funct3 ⟨35, by decide⟩ rfl rfl (by simp only [encode]; simp; rfl)
theorem bne (rs1 rs2 : Reg) (offset : BitVec 13) : Statement (.bne rs1 rs2 offset) :=
  of_funct3 ⟨36, by decide⟩ rfl rfl (by simp only [encode]; simp; rfl)
theorem blt (rs1 rs2 : Reg) (offset : BitVec 13) : Statement (.blt rs1 rs2 offset) :=
  of_funct3 ⟨37, by decide⟩ rfl rfl (by simp only [encode]; simp; rfl)
theorem bge (rs1 rs2 : Reg) (offset : BitVec 13) : Statement (.bge rs1 rs2 offset) :=
  of_funct3 ⟨38, by decide⟩ rfl rfl (by simp only [encode]; simp; rfl)
theorem bltu (rs1 rs2 : Reg) (offset : BitVec 13) : Statement (.bltu rs1 rs2 offset) :=
  of_funct3 ⟨39, by decide⟩ rfl rfl (by simp only [encode]; simp; rfl)
theorem bgeu (rs1 rs2 : Reg) (offset : BitVec 13) : Statement (.bgeu rs1 rs2 offset) :=
  of_funct3 ⟨40, by decide⟩ rfl rfl (by simp only [encode]; simp; rfl)
theorem jal (rd : Reg) (offset : BitVec 21) : Statement (.jal rd offset) :=
  of_opcode ⟨41, by decide⟩ rfl rfl (by simp only [encode]; simp; rfl)
theorem jalr (rd rs1 : Reg) (imm : BitVec 12) : Statement (.jalr rd rs1 imm) :=
  of_funct3 ⟨42, by decide⟩ rfl rfl (by simp only [encode]; simp; rfl)
theorem lui (rd : Reg) (imm20 : BitVec 20) : Statement (.lui rd imm20) :=
  of_opcode ⟨43, by decide⟩ rfl rfl (by simp only [encode]; simp; rfl)
theorem auipc (rd : Reg) (imm20 : BitVec 20) : Statement (.auipc rd imm20) :=
  of_opcode ⟨44, by decide⟩ rfl rfl (by simp only [encode]; simp; rfl)
theorem ecall : Statement .ecall :=
  of_opcode ⟨45, by decide⟩ rfl rfl rfl

end Sys2Proof.Laws.TableRow
end

