-- ==== Sys2Proof/Laws/Step.lean ====
section
/-!
SUPPORT. The step by cases: what it is in each run state, and the inversion every whole-machine claim starts from.
-/

namespace Sys2Proof.Machine

theorem step_halted {s : State} (h : s.run = .halted) : step s = .next s := by simp [step, h, haltedStep]

theorem step_haltPending {s : State} (h : s.run = .haltPending) :
    step s = .next { s.emit .finished with run := .halted } := by simp [step, h, haltPendingStep]

theorem step_running {s : State} (h : s.run = .running) :
    step s = match fetchInstr s with
      | .error f => .fault f
      | .ok i => exec i s := by simp only [step, h]; rfl

/-- A fetch answers an instruction when the access is allowed and the word decodes. -/
theorem fetchInstr_ok_iff {s : State} {i : Instr} :
    fetchInstr s = .ok i ↔
      accessFault s .fetch s.pc .word = none ∧ decodeWord (s.mem.load s.pc.toNat .word) = .ok i := by
  unfold fetchInstr fetchWord
  cases hf : accessFault s .fetch s.pc .word with
  | some f => simp [memRead_of_fault hf]
  | none =>
    simp only [memRead_of_none hf, true_and]
    cases decodeWord (s.mem.load s.pc.toNat .word) <;> simp

theorem step_running_ok {s : State} {i : Instr} (h : s.run = .running) (hf : fetchInstr s = .ok i) :
    step s = exec i s := by rw [step_running h, hf]

theorem step_running_error {s : State} {f : Fault} (h : s.run = .running) (hf : fetchInstr s = .error f) :
    step s = .fault f := by rw [step_running h, hf]

/-- The inversion of step: a next state is a halted state unchanged, the halting transition, or an instruction's commit. -/
theorem step_next {s t : State} (h : step s = .next t) :
    (s.run = .halted ∧ t = s) ∨
    (s.run = .haltPending ∧ t = { s.emit .finished with run := .halted }) ∨
    (s.run = .running ∧ ∃ i, fetchInstr s = .ok i ∧ exec i s = .next t) := by
  cases hr : s.run with
  | halted => rw [step_halted hr] at h; cases h; exact .inl ⟨rfl, rfl⟩
  | haltPending => rw [step_haltPending hr] at h; cases h; exact .inr (.inl ⟨rfl, rfl⟩)
  | running =>
    rw [step_running hr] at h
    cases hf : fetchInstr s with
    | error f => rw [hf] at h; cases h
    | ok i => rw [hf] at h; exact .inr (.inr ⟨rfl, i, rfl, h⟩)

/-- A step only appends to the notifications. -/
theorem step_trace_grows {s t : State} (h : step s = .next t) : ∃ new, t.trace = s.trace ++ new := by
  rcases step_next h with ⟨-, rfl⟩ | ⟨-, rfl⟩ | ⟨-, i, -, he⟩
  · exact ⟨[], (List.append_nil _).symm⟩
  · exact ⟨[.finished], rfl⟩
  · cases exec_next he with
    | reg | pc | store => exact ⟨[], (List.append_nil _).symm⟩
    | ecall => exact ⟨[.ecallNotify s.pc s.regs], rfl⟩

theorem step_not_refused (s : State) (r : Refusal) : step s ≠ .refused r := by
  intro h
  cases hr : s.run with
  | halted => rw [step_halted hr] at h; cases h
  | haltPending => rw [step_haltPending hr] at h; cases h
  | running =>
    rw [step_running hr] at h
    cases hf : fetchInstr s with
    | error f => rw [hf] at h; cases h
    | ok i => rw [hf] at h; exact exec_not_refused _ _ _ h

end Sys2Proof.Machine
end

