-- ==== Sys2Proof/Tests/Slice0.lean ====
section
/-!
SUPPORT. The model's own tests: ill-formed terms refused, words written out field by field from the spec's formats, one-step runs with
the values of spec/95_test_vectors.md (parts 1 and 2; nothing here is the model's own answer), and for every conditional statement of
the obligations a state and operands that meet its hypotheses, at the ends of the ranges where a clause has one.
-/

-- Many small theorems elaborated at once exhaust the thread limit of a small machine; one after the other they are fast.
set_option Elab.async false

namespace Sys2Proof.Tests
open Sys2Proof.Machine Sys2Proof.Claims

/-! ## Helpers -/

/-- The reset state with a program counter, some registers and some memory. -/
def mk (pc : Word) (rs : List (Reg × Word)) (m : Memory) : State :=
  rs.foldl (fun s w => s.writeReg w.1 w.2) { State.reset with pc := pc, mem := m }

/-- The outcome is a next state that passes the check. -/
def nextAnd (o : Host.Outcome State Fault Refusal) (p : State → Bool) : Bool :=
  match o with
  | .next t => p t
  | _ => false

/-- The outcome is this fault. -/
def faultsWith (o : Host.Outcome State Fault Refusal) (f : Fault) : Bool :=
  match o with
  | .fault g => decide (g = f)
  | _ => false

/-- One step on a word placed at the program counter. -/
def run1 (s : State) (w : Nat) : Host.Outcome State Fault Refusal := step (s.withFetchWord 32 w)

/-- After one step the register and the program counter hold these. -/
def gives (s : State) (w : Nat) (r : Reg) (v pc : Word) : Bool :=
  nextAnd (run1 s w) fun t => t.readReg r == v && t.pc == pc && t.run == .running

theorem exists_next {o : Host.Outcome State Fault Refusal} {p : State → Bool} (h : nextAnd o p = true) :
    ∃ t, o = .next t ∧ p t = true := by
  cases o with
  | next t => exact ⟨t, rfl, h⟩
  | fault | refused => cases h

theorem eq_fault {o : Host.Outcome State Fault Refusal} {f : Fault} (h : faultsWith o f = true) : o = .fault f := by
  cases o with
  | fault g => rw [of_decide_eq_true h]
  | next | refused => cases h

/-! ## WellFormed: an ill-formed term of every check is refused, and its well-formed neighbour is not (R68, R70) -/

theorem test_wf_refuses_odd_beq : Instr.wf (.beq 1 2 7) = false ∧ Instr.wf (.beq 1 2 6) = true := by decide
theorem test_wf_refuses_odd_bne : Instr.wf (.bne 1 2 7) = false ∧ Instr.wf (.bne 1 2 6) = true := by decide
theorem test_wf_refuses_odd_blt : Instr.wf (.blt 1 2 7) = false ∧ Instr.wf (.blt 1 2 6) = true := by decide
theorem test_wf_refuses_odd_bge : Instr.wf (.bge 1 2 7) = false ∧ Instr.wf (.bge 1 2 6) = true := by decide
theorem test_wf_refuses_odd_bltu : Instr.wf (.bltu 1 2 7) = false ∧ Instr.wf (.bltu 1 2 6) = true := by decide
theorem test_wf_refuses_odd_bgeu : Instr.wf (.bgeu 1 2 7) = false ∧ Instr.wf (.bgeu 1 2 6) = true := by decide
theorem test_wf_refuses_odd_jal : Instr.wf (.jal 1 0x1FFFFF) = false ∧ Instr.wf (.jal 1 0x1FFFFE) = true := by decide

/-! ## Decoding: every constructor from a word written out field by field (R61, R62, R72, R73); the hexadecimal value is the spec's
(spec/95_test_vectors.md part 2) -/

theorem test_decode_add : decodeWord 0b0000000_00010_00001_000_00011_0110011#32 = .ok (.add 3 1 2) ∧
    0b0000000_00010_00001_000_00011_0110011 = 0x002081B3 := ⟨rfl, by decide⟩
theorem test_decode_sll : decodeWord 0b0000000_00010_00001_001_00011_0110011#32 = .ok (.sll 3 1 2) ∧
    0b0000000_00010_00001_001_00011_0110011 = 0x002091B3 := ⟨rfl, by decide⟩
theorem test_decode_slt : decodeWord 0b0000000_00010_00001_010_00011_0110011#32 = .ok (.slt 3 1 2) ∧
    0b0000000_00010_00001_010_00011_0110011 = 0x0020A1B3 := ⟨rfl, by decide⟩
theorem test_decode_sltu : decodeWord 0b0000000_00010_00001_011_00011_0110011#32 = .ok (.sltu 3 1 2) ∧
    0b0000000_00010_00001_011_00011_0110011 = 0x0020B1B3 := ⟨rfl, by decide⟩
theorem test_decode_xor : decodeWord 0b0000000_00010_00001_100_00011_0110011#32 = .ok (.xor 3 1 2) ∧
    0b0000000_00010_00001_100_00011_0110011 = 0x0020C1B3 := ⟨rfl, by decide⟩
theorem test_decode_srl : decodeWord 0b0000000_00010_00001_101_00011_0110011#32 = .ok (.srl 3 1 2) ∧
    0b0000000_00010_00001_101_00011_0110011 = 0x0020D1B3 := ⟨rfl, by decide⟩
theorem test_decode_or : decodeWord 0b0000000_00010_00001_110_00011_0110011#32 = .ok (.or 3 1 2) ∧
    0b0000000_00010_00001_110_00011_0110011 = 0x0020E1B3 := ⟨rfl, by decide⟩
theorem test_decode_and : decodeWord 0b0000000_00010_00001_111_00011_0110011#32 = .ok (.and 3 1 2) ∧
    0b0000000_00010_00001_111_00011_0110011 = 0x0020F1B3 := ⟨rfl, by decide⟩
theorem test_decode_sub : decodeWord 0b0100000_00010_00001_000_00011_0110011#32 = .ok (.sub 3 1 2) ∧
    0b0100000_00010_00001_000_00011_0110011 = 0x402081B3 := ⟨rfl, by decide⟩
theorem test_decode_sra : decodeWord 0b0100000_00010_00001_101_00011_0110011#32 = .ok (.sra 3 1 2) ∧
    0b0100000_00010_00001_101_00011_0110011 = 0x4020D1B3 := ⟨rfl, by decide⟩
theorem test_decode_mul : decodeWord 0b0000001_00010_00001_000_00011_0110011#32 = .ok (.mul 3 1 2) ∧
    0b0000001_00010_00001_000_00011_0110011 = 0x022081B3 := ⟨rfl, by decide⟩
theorem test_decode_mulh : decodeWord 0b0000001_00010_00001_001_00011_0110011#32 = .ok (.mulh 3 1 2) ∧
    0b0000001_00010_00001_001_00011_0110011 = 0x022091B3 := ⟨rfl, by decide⟩
theorem test_decode_mulhsu : decodeWord 0b0000001_00010_00001_010_00011_0110011#32 = .ok (.mulhsu 3 1 2) ∧
    0b0000001_00010_00001_010_00011_0110011 = 0x0220A1B3 := ⟨rfl, by decide⟩
theorem test_decode_mulhu : decodeWord 0b0000001_00010_00001_011_00011_0110011#32 = .ok (.mulhu 3 1 2) ∧
    0b0000001_00010_00001_011_00011_0110011 = 0x0220B1B3 := ⟨rfl, by decide⟩
theorem test_decode_div : decodeWord 0b0000001_00010_00001_100_00011_0110011#32 = .ok (.div 3 1 2) ∧
    0b0000001_00010_00001_100_00011_0110011 = 0x0220C1B3 := ⟨rfl, by decide⟩
theorem test_decode_divu : decodeWord 0b0000001_00010_00001_101_00011_0110011#32 = .ok (.divu 3 1 2) ∧
    0b0000001_00010_00001_101_00011_0110011 = 0x0220D1B3 := ⟨rfl, by decide⟩
theorem test_decode_rem : decodeWord 0b0000001_00010_00001_110_00011_0110011#32 = .ok (.rem 3 1 2) ∧
    0b0000001_00010_00001_110_00011_0110011 = 0x0220E1B3 := ⟨rfl, by decide⟩
theorem test_decode_remu : decodeWord 0b0000001_00010_00001_111_00011_0110011#32 = .ok (.remu 3 1 2) ∧
    0b0000001_00010_00001_111_00011_0110011 = 0x0220F1B3 := ⟨rfl, by decide⟩
theorem test_decode_addi : decodeWord 0b111111111111_00001_000_00001_0010011#32 = .ok (.addi 1 1 (-1)) ∧
    0b111111111111_00001_000_00001_0010011 = 0xFFF08093 := ⟨rfl, by decide⟩
theorem test_decode_slti : decodeWord 0b111111111111_00001_010_00011_0010011#32 = .ok (.slti 3 1 (-1)) ∧
    0b111111111111_00001_010_00011_0010011 = 0xFFF0A193 := ⟨rfl, by decide⟩
theorem test_decode_sltiu : decodeWord 0b000000000001_00001_011_00011_0010011#32 = .ok (.sltiu 3 1 1) ∧
    0b000000000001_00001_011_00011_0010011 = 0x0010B193 := ⟨rfl, by decide⟩
theorem test_decode_xori : decodeWord 0b111111111111_00001_100_00011_0010011#32 = .ok (.xori 3 1 (-1)) ∧
    0b111111111111_00001_100_00011_0010011 = 0xFFF0C193 := ⟨rfl, by decide⟩
theorem test_decode_ori : decodeWord 0b100000000000_00001_110_00011_0010011#32 = .ok (.ori 3 1 (-2048)) ∧
    0b100000000000_00001_110_00011_0010011 = 0x8000E193 := ⟨rfl, by decide⟩
theorem test_decode_andi : decodeWord 0b111111110000_00001_111_00011_0010011#32 = .ok (.andi 3 1 (-16)) ∧
    0b111111110000_00001_111_00011_0010011 = 0xFF00F193 := ⟨rfl, by decide⟩
theorem test_decode_slli : decodeWord 0b0000000_11111_00001_001_00011_0010011#32 = .ok (.slli 3 1 31) ∧
    0b0000000_11111_00001_001_00011_0010011 = 0x01F09193 := ⟨rfl, by decide⟩
theorem test_decode_srli : decodeWord 0b0000000_00100_00001_101_00011_0010011#32 = .ok (.srli 3 1 4) ∧
    0b0000000_00100_00001_101_00011_0010011 = 0x0040D193 := ⟨rfl, by decide⟩
theorem test_decode_srai : decodeWord 0b0100000_11111_00001_101_00011_0010011#32 = .ok (.srai 3 1 31) ∧
    0b0100000_11111_00001_101_00011_0010011 = 0x41F0D193 := ⟨rfl, by decide⟩
theorem test_decode_lb : decodeWord 0b000000000010_00001_000_00011_0000011#32 = .ok (.lb 3 1 2) ∧
    0b000000000010_00001_000_00011_0000011 = 0x00208183 := ⟨rfl, by decide⟩
theorem test_decode_lh : decodeWord 0b000000000010_00001_001_00011_0000011#32 = .ok (.lh 3 1 2) ∧
    0b000000000010_00001_001_00011_0000011 = 0x00209183 := ⟨rfl, by decide⟩
theorem test_decode_lw : decodeWord 0b111100000000_00010_010_00011_0000011#32 = .ok (.lw 3 2 (-256)) ∧
    0b111100000000_00010_010_00011_0000011 = 0xF0012183 := ⟨rfl, by decide⟩
theorem test_decode_lbu : decodeWord 0b000000000000_00001_100_00011_0000011#32 = .ok (.lbu 3 1 0) ∧
    0b000000000000_00001_100_00011_0000011 = 0x0000C183 := ⟨rfl, by decide⟩
theorem test_decode_lhu : decodeWord 0b000000000000_00001_101_00011_0000011#32 = .ok (.lhu 3 1 0) ∧
    0b000000000000_00001_101_00011_0000011 = 0x0000D183 := ⟨rfl, by decide⟩
theorem test_decode_sb : decodeWord 0b0000000_00010_00001_000_00011_0100011#32 = .ok (.sb 2 1 3) ∧
    0b0000000_00010_00001_000_00011_0100011 = 0x002081A3 := ⟨rfl, by decide⟩
theorem test_decode_sh : decodeWord 0b0000000_00010_00001_001_00001_0100011#32 = .ok (.sh 2 1 1) ∧
    0b0000000_00010_00001_001_00001_0100011 = 0x002090A3 := ⟨rfl, by decide⟩
theorem test_decode_sw : decodeWord 0b1111111_00101_00110_010_11100_0100011#32 = .ok (.sw 5 6 (-4)) ∧
    0b1111111_00101_00110_010_11100_0100011 = 0xFE532E23 := ⟨rfl, by decide⟩
theorem test_decode_beq : decodeWord 0b0111111_00000_00000_000_11111_1100011#32 = .ok (.beq 0 0 4094) ∧
    0b0111111_00000_00000_000_11111_1100011 = 0x7E000FE3 := ⟨rfl, by decide⟩
theorem test_decode_bne : decodeWord 0b1111111_00000_00010_001_11001_1100011#32 = .ok (.bne 2 0 (-8)) ∧
    0b1111111_00000_00010_001_11001_1100011 = 0xFE011CE3 := ⟨rfl, by decide⟩
theorem test_decode_blt : decodeWord 0b0000000_00010_00001_100_10000_1100011#32 = .ok (.blt 1 2 16) ∧
    0b0000000_00010_00001_100_10000_1100011 = 0x0020C863 := ⟨rfl, by decide⟩
theorem test_decode_bge : decodeWord 0b0000000_00010_00001_101_10000_1100011#32 = .ok (.bge 1 2 16) ∧
    0b0000000_00010_00001_101_10000_1100011 = 0x0020D863 := ⟨rfl, by decide⟩
theorem test_decode_bltu : decodeWord 0b0000000_00010_00001_110_10000_1100011#32 = .ok (.bltu 1 2 16) ∧
    0b0000000_00010_00001_110_10000_1100011 = 0x0020E863 := ⟨rfl, by decide⟩
theorem test_decode_bgeu : decodeWord 0b0000000_00010_00001_111_10000_1100011#32 = .ok (.bgeu 1 2 16) ∧
    0b0000000_00010_00001_111_10000_1100011 = 0x0020F863 := ⟨rfl, by decide⟩
theorem test_decode_jal : decodeWord 0b11111111000111111111_00000_1101111#32 = .ok (.jal 0 (-16)) ∧
    0b11111111000111111111_00000_1101111 = 0xFF1FF06F := ⟨rfl, by decide⟩
theorem test_decode_jalr : decodeWord 0b111111111111_00101_000_00001_1100111#32 = .ok (.jalr 1 5 (-1)) ∧
    0b111111111111_00101_000_00001_1100111 = 0xFFF280E7 := ⟨rfl, by decide⟩
theorem test_decode_lui : decodeWord 0b11011110101011011100_00101_0110111#32 = .ok (.lui 5 0xDEADC) ∧
    0b11011110101011011100_00101_0110111 = 0xDEADC2B7 := ⟨rfl, by decide⟩
theorem test_decode_auipc : decodeWord 0b11111111111111111111_00101_0010111#32 = .ok (.auipc 5 0xFFFFF) ∧
    0b11111111111111111111_00101_0010111 = 0xFFFFF297 := ⟨rfl, by decide⟩
theorem test_decode_ecall : decodeWord 0b000000000000_00000_000_00000_1110011#32 = .ok (.ecall) ∧
    0b000000000000_00000_000_00000_1110011 = 0x00000073 := ⟨rfl, by decide⟩

/-- Words of the SYSTEM opcode other than the canonical one are ECALL too (section 2.10: EBREAK's and MRET's words). -/
theorem test_decode_system : decodeWord 0x00100073#32 = .ok .ecall ∧ decodeWord 0x30200073#32 = .ok .ecall := ⟨rfl, rfl⟩

/-- The immediates of section 2.1 at the ends of their ranges. -/
theorem test_immediates :
    immB (immBOf 0x80000063#32) = 0xFFFFF000#32 ∧ immB (immBOf 0x7E000FE3#32) = 0x00000FFE#32 ∧
    immJ (immJOf 0x800000EF#32) = 0xFFF00000#32 ∧ immJ (immJOf 0x7FFFF0EF#32) = 0x000FFFFE#32 ∧
    immS (immSOf 0xFE532E23#32) = 0xFFFFFFFC#32 ∧ immI (immIOf 0x8000E193#32) = 0xFFFFF800#32 := by decide

/-- The words of section 2.11 that no opcode recognises, by name. -/
theorem test_rejects_unrecognised :
    ([0x00000000#32, 0xFFFFFFFF#32, 0x00000001#32, 0x0000000F#32, 0x0000100F#32, 0x0000002F#32, 0x00000007#32, 0x0000001B#32,
      0x0000003B#32].all fun w => match decodeWord w with
        | .error (.unrecognisedOpcode v) => v == w
        | _ => false) = true := by decide

/-- The words of section 2.11 with a reserved minor field, by name. -/
theorem test_rejects_reserved :
    ([0x40001033#32, 0x04000033#32, 0x02001013#32, 0x2000D013#32, 0x00003003#32, 0x00006003#32, 0x00003023#32, 0x00002063#32,
      0x00001067#32].all fun w => match decodeWord w with
        | .error (.reservedMinor v) => v == w
        | _ => false) = true := by decide

/-- Bytes are read lowest address first, the rest is handed back, and three bytes are no instruction (R42, R60). -/
theorem test_decode_bytes :
    decode [0x93#8, 0x00#8, 0x50#8, 0x00#8, 0xAA#8] = .ok (.addi 1 0 5, [0xAA#8]) ∧
    decode [0x93#8, 0x00#8, 0x50#8] = .error .truncated := ⟨rfl, rfl⟩

theorem test_decodeTableWord : decodeTableWord 32 0x00500093 = some (.addi 1 0 5) ∧ decodeTableWord 32 0 = none := by decide

/-- Encoding gives the spec's words (sections 2.1, 2.6, 2.7). -/
theorem test_encode : encode (.sw 5 6 (-4)) = 0xFE532E23#32 ∧ encode (.bne 2 0 (-8)) = 0xFE011CE3#32 ∧
    encode (.jal 0 (-16)) = 0xFF1FF06F#32 ∧ encode (.srai 3 1 31) = 0x41F0D193#32 ∧ encode .ecall = 0x00000073#32 := by decide

/-! ## One step: the rows of spec/95_test_vectors.md sections 2.2 and 2.3, result in x3, `pc = 4` -/

/-- The state of sections 2.2 to 2.4: `x1` and `x2` given. -/
def ab (a b : Word) : State := mk 0 [(1, a), (2, b)] []

theorem test_add : gives (ab 0x7FFFFFFF#32 0x00000001#32) 0x002081B3 3 0x80000000#32 4 = true ∧
    gives (ab 0xFFFFFFFF#32 0x00000001#32) 0x002081B3 3 0x00000000#32 4 = true := by decide
theorem test_sll : gives (ab 0x00000001#32 0x00000023#32) 0x002091B3 3 0x00000008#32 4 = true ∧
    gives (ab 0xFFFFFFFF#32 0x00000004#32) 0x002091B3 3 0xFFFFFFF0#32 4 = true := by decide
theorem test_slt : gives (ab 0x80000000#32 0x7FFFFFFF#32) 0x0020A1B3 3 0x00000001#32 4 = true ∧
    gives (ab 0x00000005#32 0x00000005#32) 0x0020A1B3 3 0x00000000#32 4 = true := by decide
theorem test_sltu : gives (ab 0xFFFFFFFF#32 0x00000001#32) 0x0020B1B3 3 0x00000000#32 4 = true ∧
    gives (ab 0x00000000#32 0x00000001#32) 0x0020B1B3 3 0x00000001#32 4 = true := by decide
theorem test_xor : gives (ab 0xFF00FF00#32 0x0FF00FF0#32) 0x0020C1B3 3 0xF0F0F0F0#32 4 = true := by decide
theorem test_srl : gives (ab 0x80000000#32 0x00000004#32) 0x0020D1B3 3 0x08000000#32 4 = true ∧
    gives (ab 0x80000000#32 0x0000001F#32) 0x0020D1B3 3 0x00000001#32 4 = true := by decide
theorem test_or : gives (ab 0xFF00FF00#32 0x0FF00FF0#32) 0x0020E1B3 3 0xFFF0FFF0#32 4 = true := by decide
theorem test_and : gives (ab 0xFF00FF00#32 0x0FF00FF0#32) 0x0020F1B3 3 0x0F000F00#32 4 = true := by decide
theorem test_sub : gives (ab 0x00000003#32 0x00000005#32) 0x402081B3 3 0xFFFFFFFE#32 4 = true ∧
    gives (ab 0x80000000#32 0x00000001#32) 0x402081B3 3 0x7FFFFFFF#32 4 = true := by decide
theorem test_sra : gives (ab 0x80000000#32 0x00000004#32) 0x4020D1B3 3 0xF8000000#32 4 = true ∧
    gives (ab 0x7FFFFFFF#32 0x00000004#32) 0x4020D1B3 3 0x07FFFFFF#32 4 = true := by decide
theorem test_mul : gives (ab 0xFFFFFFFF#32 0xFFFFFFFF#32) 0x022081B3 3 0x00000001#32 4 = true ∧
    gives (ab 0x00000007#32 0x00000006#32) 0x022081B3 3 0x0000002A#32 4 = true := by decide
theorem test_mulh : gives (ab 0x80000000#32 0x80000000#32) 0x022091B3 3 0x40000000#32 4 = true ∧
    gives (ab 0x80000000#32 0x7FFFFFFF#32) 0x022091B3 3 0xC0000000#32 4 = true := by decide
theorem test_mulhsu : gives (ab 0xFFFFFFFF#32 0xFFFFFFFF#32) 0x0220A1B3 3 0xFFFFFFFF#32 4 = true ∧
    gives (ab 0x00000001#32 0xFFFFFFFF#32) 0x0220A1B3 3 0x00000000#32 4 = true := by decide
theorem test_mulhu : gives (ab 0xFFFFFFFF#32 0xFFFFFFFF#32) 0x0220B1B3 3 0xFFFFFFFE#32 4 = true ∧
    gives (ab 0x80000000#32 0x00000002#32) 0x0220B1B3 3 0x00000001#32 4 = true := by decide
theorem test_div : gives (ab 0xFFFFFFF9#32 0x00000002#32) 0x0220C1B3 3 0xFFFFFFFD#32 4 = true ∧
    gives (ab 0x80000000#32 0xFFFFFFFF#32) 0x0220C1B3 3 0x80000000#32 4 = true := by decide
theorem test_divu : gives (ab 0xFFFFFFF9#32 0x00000002#32) 0x0220D1B3 3 0x7FFFFFFC#32 4 = true ∧
    gives (ab 0x0000000A#32 0x00000000#32) 0x0220D1B3 3 0xFFFFFFFF#32 4 = true := by decide
theorem test_rem : gives (ab 0xFFFFFFF9#32 0x00000002#32) 0x0220E1B3 3 0xFFFFFFFF#32 4 = true ∧
    gives (ab 0x80000000#32 0xFFFFFFFF#32) 0x0220E1B3 3 0x00000000#32 4 = true := by decide
theorem test_remu : gives (ab 0xFFFFFFF9#32 0xFFFFFFFE#32) 0x0220F1B3 3 0xFFFFFFF9#32 4 = true ∧
    gives (ab 0x0000000A#32 0x00000000#32) 0x0220F1B3 3 0x0000000A#32 4 = true := by decide

/-- The same register as source and destination, and destination x0 (section 2.2, R13, R12). -/
theorem test_add_same_and_x0 : gives (mk 0 [(1, 3)] []) 0x001080B3 1 6 4 = true ∧ gives (ab 1 2) 0x00208033 0 0 4 = true := by decide

/-! ## One step: section 2.4 -/

theorem test_addi : gives (mk 0 [(1, 0x00000000#32)] []) 0xFFF08093 1 0xFFFFFFFF#32 4 = true ∧
    gives (mk 0 [(1, 0x7FFFFFFF#32)] []) 0x7FF08093 1 0x800007FE#32 4 = true := by decide
theorem test_slti : gives (mk 0 [(1, 0x80000000#32)] []) 0xFFF0A193 3 0x00000001#32 4 = true ∧
    gives (mk 0 [(1, 0x00000000#32)] []) 0x0000A193 3 0x00000000#32 4 = true := by decide
theorem test_sltiu : gives (mk 0 [(1, 0xFFFFFFFF#32)] []) 0xFFF0B193 3 0x00000000#32 4 = true ∧
    gives (mk 0 [(1, 0x00000005#32)] []) 0xFFF0B193 3 0x00000001#32 4 = true := by decide
theorem test_xori : gives (mk 0 [(1, 0x0F0F0F0F#32)] []) 0xFFF0C193 3 0xF0F0F0F0#32 4 = true := by decide
theorem test_ori : gives (mk 0 [(1, 0x00000001#32)] []) 0x8000E193 3 0xFFFFF801#32 4 = true ∧
    gives (mk 0 [(1, 0x00000F00#32)] []) 0x0F00E193 3 0x00000FF0#32 4 = true := by decide
theorem test_andi : gives (mk 0 [(1, 0x12345678#32)] []) 0xFF00F193 3 0x12345670#32 4 = true ∧
    gives (mk 0 [(1, 0x12345678#32)] []) 0x0FF0F193 3 0x00000078#32 4 = true := by decide
theorem test_slli : gives (mk 0 [(1, 0x00000003#32)] []) 0x01F09193 3 0x80000000#32 4 = true := by decide
theorem test_srli : gives (mk 0 [(1, 0x80000000#32)] []) 0x01F0D193 3 0x00000001#32 4 = true ∧
    gives (mk 0 [(1, 0x80000000#32)] []) 0x0040D193 3 0x08000000#32 4 = true := by decide
theorem test_srai : gives (mk 0 [(1, 0x80000000#32)] []) 0x41F0D193 3 0xFFFFFFFF#32 4 = true ∧
    gives (mk 0 [(1, 0x80000000#32)] []) 0x4000D193 3 0x80000000#32 4 = true := by decide

/-! ## One step: sections 2.5 and 2.6 -/

/-- The start of section 2.5: `x1 = 0x100`, `x2 = 0x200`, bytes 80 FF 7F 01 from 0x100 on. -/
def loads : State := mk 0 [(1, 0x100), (2, 0x200)] [(0x100, 0x80#8), (0x101, 0xFF#8), (0x102, 0x7F#8), (0x103, 0x01#8)]

theorem test_lb : gives loads 0x00008183 3 0xFFFFFF80#32 4 = true ∧
    gives loads 0x00208183 3 0x0000007F#32 4 = true := by decide
theorem test_lbu : gives loads 0x0000C183 3 0x00000080#32 4 = true := by decide
theorem test_lh : gives loads 0x00009183 3 0xFFFFFF80#32 4 = true ∧
    gives loads 0x00209183 3 0x0000017F#32 4 = true := by decide
theorem test_lhu : gives loads 0x0000D183 3 0x0000FF80#32 4 = true := by decide
theorem test_lw : gives loads 0x0000A183 3 0x017FFF80#32 4 = true ∧
    gives loads 0xF0012183 3 0x017FFF80#32 4 = true := by decide

/-- Misaligned and out-of-range loads, `rd = x0` included, misaligned first, and a wrapping address. -/
theorem test_load_faults :
    faultsWith (run1 loads 0x00109183) (.memoryAccess .load .misaligned 0x00000101#32 .half 0) = true ∧
    faultsWith (run1 loads 0x0010A003) (.memoryAccess .load .misaligned 0x00000101#32 .word 0) = true ∧
    faultsWith (run1 (mk 0 [(1, 0x00010002#32)] []) 0x0000A183) (.memoryAccess .load .misaligned 0x00010002#32 .word 0) = true ∧
    faultsWith (run1 (mk 0 [(1, 0x00010001#32)] []) 0x00008183) (.memoryAccess .load .outOfRange 0x00010001#32 .byte 0) = true ∧
    faultsWith (run1 (mk 0 [] []) 0xFFC02183) (.memoryAccess .load .outOfRange 0xFFFFFFFC#32 .word 0) = true := by decide

/-- The start of section 2.6. -/
def stores : State := mk 0 [(1, 0x100), (2, 0xA1B2C3D4#32)] ((List.range 12).map fun k => (0xFC + k, 0x11#8))

/-- After one step the twelve bytes from 0xFC on are these. -/
def leaves (w : Nat) (bs : List Byte) : Bool :=
  nextAnd (run1 stores w) fun t => ((List.range 12).map fun k => t.mem.read (0xFC + k)) == bs && t.pc == 4 && t.regs == stores.regs

theorem test_sb : leaves 0x00208023
      [0x11#8, 0x11#8, 0x11#8, 0x11#8, 0xD4#8, 0x11#8, 0x11#8, 0x11#8, 0x11#8, 0x11#8, 0x11#8, 0x11#8] = true ∧
    leaves 0x002081A3
      [0x11#8, 0x11#8, 0x11#8, 0x11#8, 0x11#8, 0x11#8, 0x11#8, 0xD4#8, 0x11#8, 0x11#8, 0x11#8, 0x11#8] = true := by decide
theorem test_sh : leaves 0x00209023
      [0x11#8, 0x11#8, 0x11#8, 0x11#8, 0xD4#8, 0xC3#8, 0x11#8, 0x11#8, 0x11#8, 0x11#8, 0x11#8, 0x11#8] = true := by decide
theorem test_sw : leaves 0x0020A023
      [0x11#8, 0x11#8, 0x11#8, 0x11#8, 0xD4#8, 0xC3#8, 0xB2#8, 0xA1#8, 0x11#8, 0x11#8, 0x11#8, 0x11#8] = true ∧
    leaves 0xFE20AE23
      [0xD4#8, 0xC3#8, 0xB2#8, 0xA1#8, 0x11#8, 0x11#8, 0x11#8, 0x11#8, 0x11#8, 0x11#8, 0x11#8, 0x11#8] = true := by decide

theorem test_store_faults :
    faultsWith (run1 stores 0x002090A3) (.memoryAccess .store .misaligned 0x00000101#32 .half 0) = true ∧
    faultsWith (run1 stores 0x0020A123) (.memoryAccess .store .misaligned 0x00000102#32 .word 0) = true ∧
    faultsWith (run1 (mk 0 [(1, 0xFFFFFFFC#32), (3, 1)] []) 0x0030A023)
      (.memoryAccess .store .outOfRange 0xFFFFFFFC#32 .word 0) = true := by decide

/-! ## One step: section 2.7, `pc = 0x20`, taken to 0x30, else to 0x24 -/

/-- The program counter after one step of the word with these `x1` and `x2`. -/
def branchesTo (w : Nat) (a b pc : Word) : Bool :=
  nextAnd (run1 (mk 0x20 [(1, a), (2, b)] []) w) fun t => t.pc == pc && t.regs == (mk 0x20 [(1, a), (2, b)] []).regs

theorem test_beq : branchesTo 0x00208863 0x00000005#32 0x00000005#32 0x30 = true ∧
    branchesTo 0x00208863 0x00000001#32 0xFFFFFFFF#32 0x24 = true := by decide
theorem test_bne : branchesTo 0x00209863 0x00000005#32 0x00000005#32 0x24 = true ∧
    branchesTo 0x00209863 0x00000001#32 0xFFFFFFFF#32 0x30 = true := by decide
theorem test_blt : branchesTo 0x0020C863 0xFFFFFFFF#32 0x00000001#32 0x30 = true ∧
    branchesTo 0x0020C863 0x00000001#32 0xFFFFFFFF#32 0x24 = true := by decide
theorem test_bge : branchesTo 0x0020D863 0x00000005#32 0x00000005#32 0x30 = true ∧
    branchesTo 0x0020D863 0x80000000#32 0x7FFFFFFF#32 0x24 = true := by decide
theorem test_bltu : branchesTo 0x0020E863 0x00000001#32 0xFFFFFFFF#32 0x30 = true ∧
    branchesTo 0x0020E863 0x00000005#32 0x00000005#32 0x24 = true := by decide
theorem test_bgeu : branchesTo 0x0020F863 0xFFFFFFFF#32 0x00000001#32 0x30 = true ∧
    branchesTo 0x0020F863 0x00000001#32 0xFFFFFFFF#32 0x24 = true := by decide

/-- Offsets at both ends; a misaligned target of a branch not taken does not matter. -/
theorem test_branch_offsets :
    gives (mk 0x2000 [] []) 0x80000063 0 0 0x1000 = true ∧ gives (mk 0 [] []) 0x7E000FE3 0 0 0xFFE = true ∧
    gives (mk 0 [(1, 1)] []) 0x00008163 1 1 4 = true := by decide

/-! ## One step: sections 2.8 to 2.10 -/

theorem test_jal : gives (mk 0x64 [] []) 0x064000EF 1 0x68 0xC8 = true ∧ gives (mk 0x18 [] []) 0xFF1FF06F 0 0 0x08 = true := by decide
theorem test_jalr : gives (mk 0x40 [(1, 0x100)] []) 0x004080E7 1 0x44 0x104 = true ∧
    gives (mk 0x40 [(5, 0x100)] []) 0x001280E7 1 0x44 0x101 = true := by decide
theorem test_lui : gives (mk 0 [(27, 5)] []) 0xDEADC2B7 5 0xDEADC000#32 4 = true ∧ gives (mk 0 [] []) 0x12345037 0 0 4 = true := by
  decide
theorem test_auipc : gives (mk 8 [] []) 0x00001297 5 0x1008 0xC = true ∧ gives (mk 8 [] []) 0xFFFFF297 5 0xFFFFF008#32 0xC = true := by
  decide

/-- ECALL (S9): one notification with the pre-edge pc, HaltPending, and nothing written. -/
theorem test_ecall : nextAnd (run1 (mk 0 [(1, 7)] []) 0x00000073) (fun t =>
    t.run == .haltPending && t.pc == 4 && t.regs == (mk 0 [(1, 7)] []).regs &&
      t.trace == [.ecallNotify 0 (mk 0 [(1, 7)] []).regs]) = true := by decide

/-- The cycle after (S9, step 2), and the one after that. -/
theorem test_halt_steps :
    nextAnd (step { mk 4 [] [] with run := .haltPending }) (fun t => t.run == .halted && t.pc == 4 && t.trace == [.finished]) = true ∧
    nextAnd (step { mk 4 [] [] with run := .halted }) (fun t => t == { mk 4 [] [] with run := .halted }) = true := by decide

/-- Restoring a snapshot taken before an ECALL, from Halted: Running again at the ECALL, which then notifies anew (S10). -/
theorem test_restore_reruns_ecall :
    let before := (mk 4 [(1, 5)] []).withFetchWord 32 0x00000073
    let halted := { before with pc := 8, run := .halted, trace := [.ecallNotify 4 before.regs, .finished] }
    nextAnd (step (halted.restore before.capture)) (fun t => t.run == .haltPending && t.pc == 8 &&
      t.trace == [.ecallNotify 4 before.regs, .finished, .ecallNotify 4 before.regs]) = true := by decide

/-- An illegal word (S11) and a reserved one that would also address memory (section 2.12). -/
theorem test_illegal :
    faultsWith (run1 (mk 0 [(1, 7)] []) 0x00000000) (.illegalInstruction 0x00000000#32 0) = true ∧
    faultsWith (run1 (mk 0 [] []) 0x00003003) (.illegalInstruction 0x00003003#32 0) = true := by decide

/-- Fetch faults (section 2.12): past the end of memory, and misaligned before out of range. -/
theorem test_fetch_faults :
    faultsWith (step (mk 0x00010000 [] [])) (.memoryAccess .fetch .outOfRange 0x00010000#32 .word 0x00010000#32) = true ∧
    faultsWith (step (mk 0x00010002 [] [])) (.memoryAccess .fetch .misaligned 0x00010002#32 .word 0x00010002#32) = true := by decide

/-! ## Witnesses: the hypotheses of each conditional statement can be met -/

/-- The word 0x00000013 at 0x100, 0x104 and 0x108; a zero byte has no entry. -/
def nop3 : Memory := [(0x100, 0x13#8), (0x104, 0x13#8), (0x108, 0x13#8)]

/-- `x5 = 0xDEADBEEF`, `x6 = 0x100`, running at 0 on `SW x5, 0(x6)` (S6). -/
def swState : State := (mk 0 [(5, 0xDEADBEEF#32), (6, 0x100)] []).withFetchWord 32 0x00532023

/-- Running at 4 on an ECALL. -/
def ecallState : State := (mk 4 [(1, 5)] []).withFetchWord 32 0x00000073

/-- Running at 0 on the word 0 (S11). -/
def illegalState : State := mk 0 [(1, 7)] []

theorem inv_swState : swState.Inv := ⟨by decide, by decide, by decide⟩

/-- A configuration with memory contents and registers of its own. -/
def ownConfig : Config where
  memValid := [⟨0x100, 0x10⟩, ⟨0xFFFFFFF0, 0x10⟩]
  memInit  := [(0x100, 0x13#8), (0xFFFFFFFF, 0x01#8)]
  pcReset  := 0x100
  regInit  := Vector.replicate 31 0x5#32

theorem witness_ResetMeetsInvariant : configWf ownConfig = true := by decide
theorem witness_StepKeepsInvariant : ∃ s t, State.Inv s ∧ step s = .next t := by
  obtain ⟨t, h, -⟩ := exists_next (o := step swState) (p := fun t => t.mem.read 0x100 == 0xEF#8) (by decide)
  exact ⟨swState, t, inv_swState, h⟩
theorem witness_HostOperationsKeepInvariant :
    ∃ (s : State) (op : HostOp) (q : Snapshot), s.Inv ∧ op = .restore q ∧ q.mem ≠ [] ∧ ∀ p, op = .restore p → p.Fits s.cfg :=
  ⟨swState, .restore swState.capture, _, inv_swState, rfl, by decide, by rintro p ⟨⟩; exact ⟨by decide, by decide⟩⟩
theorem witness_CanonicalMemoriesReadingAlikeAreEqual :
    ∃ m n : Memory, m.wf = true ∧ n.wf = true ∧ m ≠ [] ∧ ∀ a, m.read a = n.read a :=
  ⟨nop3, nop3, by decide, by decide, by decide, fun _ => rfl⟩
theorem witness_QuotientTimesDivisorPlusRemainder : ∃ rd : Reg, rd ≠ 0 := ⟨31, by decide⟩


/-- The bytes an access needs exist, decided. -/
theorem bytesExist_of {s : State} {a n : Nat} (h : rangeExists s.cfg a n = true) : BytesExist s a n := by
  induction n generalizing a with
  | zero => intro k hk; omega
  | succ n ih =>
    rw [rangeExists, Bool.and_eq_true] at h
    intro k hk
    cases k with
    | zero => exact h.1
    | succ k => have := ih h.2 k (by omega); rwa [Nat.add_right_comm] at this

theorem not_bytesExist_of {s : State} {a n : Nat} (k : Nat) (hk : k < n) (h : addressExists s.cfg (a + k) = false) :
    ¬ BytesExist s a n := fun hb => by rw [hb k hk] at h; cases h

/-- `x1` holds an address at an end of MEM_VALID. -/
def atAddress (a : Word) : State := mk 0 [(1, a)] []

/-- One byte at the last address, a halfword and a word ending there, and all three at address 0 (loads). -/
theorem witness_LoadResult :
    (∃ s a, a = (State.effectiveAddress s 1 (immI 0)).toNat ∧ a = 0xFFFF ∧ BytesExist s a 1) ∧
    (∃ s a, a = (State.effectiveAddress s 1 (immI 0)).toNat ∧ a = 0xFFFE ∧ a % 2 = 0 ∧ BytesExist s a 2) ∧
    (∃ s a, a = (State.effectiveAddress s 1 (immI 0)).toNat ∧ a = 0xFFFC ∧ a % 4 = 0 ∧ BytesExist s a 4) ∧
    (∃ s a, a = (State.effectiveAddress s 1 (immI (-1))).toNat ∧ a = 0 ∧ a % 4 = 0 ∧ BytesExist s a 4) :=
  ⟨⟨atAddress 0xFFFF, 0xFFFF, by decide, rfl, bytesExist_of (by decide)⟩,
   ⟨atAddress 0xFFFE, 0xFFFE, by decide, rfl, by decide, bytesExist_of (by decide)⟩,
   ⟨atAddress 0xFFFC, 0xFFFC, by decide, rfl, by decide, bytesExist_of (by decide)⟩,
   ⟨atAddress 1, 0, by decide, rfl, by decide, bytesExist_of (by decide)⟩⟩

/-- The same for stores. -/
theorem witness_StoreResult :
    (∃ s a, a = (State.effectiveAddress s 1 (immS 0)).toNat ∧ a = 0xFFFF ∧ BytesExist s a 1) ∧
    (∃ s a, a = (State.effectiveAddress s 1 (immS 0)).toNat ∧ a = 0xFFFE ∧ a % 2 = 0 ∧ BytesExist s a 2) ∧
    (∃ s a, a = (State.effectiveAddress s 1 (immS 0)).toNat ∧ a = 0xFFFC ∧ a % 4 = 0 ∧ BytesExist s a 4) ∧
    (∃ s a, a = (State.effectiveAddress s 1 (immS (-1))).toNat ∧ a = 0 ∧ a % 4 = 0 ∧ BytesExist s a 4) :=
  ⟨⟨atAddress 0xFFFF, 0xFFFF, by decide, rfl, bytesExist_of (by decide)⟩,
   ⟨atAddress 0xFFFE, 0xFFFE, by decide, rfl, by decide, bytesExist_of (by decide)⟩,
   ⟨atAddress 0xFFFC, 0xFFFC, by decide, rfl, by decide, bytesExist_of (by decide)⟩,
   ⟨atAddress 1, 0, by decide, rfl, by decide, bytesExist_of (by decide)⟩⟩

/-- Odd for a halfword, a multiple of 2 only for a word, and the first addresses past the end. -/
theorem witness_LoadFaults :
    (∃ s a, a = State.effectiveAddress s 1 (immI 1) ∧ a.toNat % 2 ≠ 0) ∧
    (∃ s a, a = State.effectiveAddress s 1 (immI 2) ∧ a.toNat % 4 ≠ 0) ∧
    (∃ s a, a = State.effectiveAddress s 1 (immI 0) ∧ a = 0x10000#32 ∧ ¬ BytesExist s a.toNat 1) ∧
    (∃ s a, a = State.effectiveAddress s 1 (immI 0) ∧ a = 0x10000#32 ∧ a.toNat % 2 = 0 ∧ ¬ BytesExist s a.toNat 2) ∧
    (∃ s a, a = State.effectiveAddress s 1 (immI 0) ∧ a = 0xFFFFFFFC#32 ∧ a.toNat % 4 = 0 ∧ ¬ BytesExist s a.toNat 4) :=
  ⟨⟨atAddress 0x100, _, rfl, by decide⟩, ⟨atAddress 0x100, _, rfl, by decide⟩,
   ⟨atAddress 0x10000, _, rfl, by decide, not_bytesExist_of 0 (by decide) (by decide)⟩,
   ⟨atAddress 0x10000, _, rfl, by decide, by decide, not_bytesExist_of 0 (by decide) (by decide)⟩,
   ⟨atAddress 0xFFFFFFFC, _, rfl, by decide, by decide, not_bytesExist_of 0 (by decide) (by decide)⟩⟩

/-- The same for stores. -/
theorem witness_StoreFaults :
    (∃ s a, a = State.effectiveAddress s 1 (immS 1) ∧ a.toNat % 2 ≠ 0) ∧
    (∃ s a, a = State.effectiveAddress s 1 (immS 2) ∧ a.toNat % 4 ≠ 0) ∧
    (∃ s a, a = State.effectiveAddress s 1 (immS 0) ∧ a = 0x10000#32 ∧ ¬ BytesExist s a.toNat 1) ∧
    (∃ s a, a = State.effectiveAddress s 1 (immS 0) ∧ a = 0x10000#32 ∧ a.toNat % 2 = 0 ∧ ¬ BytesExist s a.toNat 2) ∧
    (∃ s a, a = State.effectiveAddress s 1 (immS 0) ∧ a = 0xFFFFFFFC#32 ∧ a.toNat % 4 = 0 ∧ ¬ BytesExist s a.toNat 4) :=
  ⟨⟨atAddress 0x100, _, rfl, by decide⟩, ⟨atAddress 0x100, _, rfl, by decide⟩,
   ⟨atAddress 0x10000, _, rfl, by decide, not_bytesExist_of 0 (by decide) (by decide)⟩,
   ⟨atAddress 0x10000, _, rfl, by decide, by decide, not_bytesExist_of 0 (by decide) (by decide)⟩,
   ⟨atAddress 0xFFFFFFFC, _, rfl, by decide, by decide, not_bytesExist_of 0 (by decide) (by decide)⟩⟩

/-- A store completes, a load of the word aims at it, and a byte load at its first and at its last byte. -/
theorem witness_StoreThenLoad : ∃ s t, exec (.sw 5 6 0) s = .next t ∧
    t.effectiveAddress 6 (immI 0) = s.effectiveAddress 6 (immS 0) ∧
    (t.effectiveAddress 6 (immI 0)).toNat = (s.effectiveAddress 6 (immS 0)).toNat + 0 ∧
    (t.effectiveAddress 6 (immI 3)).toNat = (s.effectiveAddress 6 (immS 0)).toNat + 3 := by
  obtain ⟨t, h, hp⟩ := exists_next (o := exec (.sw 5 6 0) swState)
    (p := fun t => decide (t.effectiveAddress 6 (immI 0) = swState.effectiveAddress 6 (immS 0) ∧
      (t.effectiveAddress 6 (immI 0)).toNat = (swState.effectiveAddress 6 (immS 0)).toNat + 0 ∧
      (t.effectiveAddress 6 (immI 3)).toNat = (swState.effectiveAddress 6 (immS 0)).toNat + 3)) (by decide)
  exact ⟨swState, t, h, of_decide_eq_true hp⟩

/-- P7: the word of `ADDI x1, x0, 5` is stored over the next instruction. -/
theorem witness_StoreThenFetch : ∃ s t i, exec (.sw 5 0 12) s = .next t ∧ s.effectiveAddress 0 (immS 12) = t.pc ∧
    t.run = .running ∧ decodeWord (s.readReg 5) = .ok i := by
  obtain ⟨t, h, hp⟩ := exists_next (o := exec (.sw 5 0 12) (mk 8 [(5, 0x00500093#32)] []))
    (p := fun t => decide ((mk 8 [(5, 0x00500093#32)] []).effectiveAddress 0 (immS 12) = t.pc ∧ t.run = .running)) (by decide)
  have hp := of_decide_eq_true hp
  exact ⟨_, t, .addi 1 0 5, h, hp.1, hp.2, rfl⟩

/-- Both ends of the branch offset. -/
theorem witness_BranchResult :
    (∃ (s : State) (o : BitVec 13) (taken : Word), o.toInt = -4096 ∧ taken = BitVec.ofInt 32 (s.pc.toNat + o.toInt)) ∧
    (∃ (s : State) (o : BitVec 13) (taken : Word), o.toInt = 4094 ∧ taken = BitVec.ofInt 32 (s.pc.toNat + o.toInt)) :=
  ⟨⟨State.reset, 0x1000#13, _, by decide, rfl⟩, ⟨State.reset, 0x0FFE#13, _, by decide, rfl⟩⟩

/-- `JAL x1, 2` at 0 (section 2.8). -/
theorem witness_MisalignedTargetFaultsAtNextFetch : ∃ s t, State.run s = .running ∧ step s = .next t ∧ t.pc.toNat % 4 ≠ 0 := by
  obtain ⟨t, h, hp⟩ := exists_next (o := run1 (mk 0 [] []) 0x002000EF) (p := fun t => decide (t.pc.toNat % 4 ≠ 0)) (by decide)
  exact ⟨_, t, rfl, h, of_decide_eq_true hp⟩

theorem fetchAllowed_of {s : State} (h : (decide (s.pc.toNat % 4 = 0) && rangeExists s.cfg s.pc.toNat 4) = true) : FetchAllowed s := by
  rw [Bool.and_eq_true] at h
  exact ⟨of_decide_eq_true h.1, bytesExist_of h.2⟩

theorem witness_OnlyEcallLeavesRunning :
    (∃ s, State.run s = .running ∧ FetchAllowed s ∧ opcodeOf (wordAtPc s) = 0b1110011#7) ∧
    (∃ s t, State.run s = .running ∧ step s = .next t ∧ opcodeOf (wordAtPc s) ≠ 0b1110011#7) := by
  obtain ⟨t, h, -⟩ := exists_next (o := step swState) (p := fun _ => true) (by decide)
  exact ⟨⟨ecallState, rfl, fetchAllowed_of (by decide), by decide⟩, ⟨swState, t, rfl, h, by decide⟩⟩
theorem witness_HaltingSteps : (∃ s, State.run s = .haltPending) ∧ ∃ s, State.run s = .halted :=
  ⟨⟨{ ecallState with run := .haltPending }, rfl⟩, ⟨{ ecallState with run := .halted }, rfl⟩⟩
theorem witness_FinishedOncePerHalt : (∃ s, State.run s = .haltPending) ∧ ∃ s, State.run s ≠ .haltPending :=
  ⟨⟨{ ecallState with run := .haltPending }, rfl⟩, ⟨ecallState, nofun⟩⟩

/-- A step that emits EcallNotify, one that emits Finished, one that emits nothing. -/
theorem witness_NotificationsOfAStep :
    (∃ s t, step s = .next t ∧ s.run = .running ∧ opcodeOf (wordAtPc s) = 0b1110011#7) ∧
    (∃ s t, step s = .next t ∧ s.run = .haltPending) ∧
    (∃ s t, step s = .next t ∧ s.run = .running ∧ opcodeOf (wordAtPc s) ≠ 0b1110011#7) := by
  obtain ⟨t, h, -⟩ := exists_next (o := step ecallState) (p := fun _ => true) (by decide)
  obtain ⟨u, g, -⟩ := exists_next (o := step { ecallState with run := .haltPending }) (p := fun _ => true) (by decide)
  obtain ⟨v, k, -⟩ := exists_next (o := step swState) (p := fun _ => true) (by decide)
  exact ⟨⟨_, t, h, rfl, by decide⟩, ⟨_, u, g, rfl⟩, ⟨_, v, k, rfl, by decide⟩⟩
theorem witness_HaltSequence : ∃ s, State.run s = .running ∧ FetchAllowed s ∧ opcodeOf (wordAtPc s) = 0b1110011#7 :=
  ⟨ecallState, rfl, fetchAllowed_of (by decide), by decide⟩
theorem witness_StepRunsTheDecodedInstruction : ∃ s i, State.run s = .running ∧ FetchAllowed s ∧
    decode [s.mem.read s.pc.toNat, s.mem.read (s.pc.toNat + 1), s.mem.read (s.pc.toNat + 2), s.mem.read (s.pc.toNat + 3)]
      = .ok (i, []) := ⟨swState, .sw 5 6 0, rfl, fetchAllowed_of (by decide), rfl⟩

/-- A misaligned program counter, and the first aligned one past the end. -/
theorem witness_FetchFaults :
    (∃ s, State.run s = .running ∧ s.pc.toNat % 4 ≠ 0) ∧
    (∃ s, State.run s = .running ∧ s.pc.toNat % 4 = 0 ∧ ¬ BytesExist s s.pc.toNat 4) :=
  ⟨⟨mk 2 [] [], rfl, by decide⟩, ⟨mk 0x10000 [] [], rfl, by decide, not_bytesExist_of 0 (by decide) (by decide)⟩⟩

/-- An illegal word and a legal one. -/
theorem witness_IllegalExactlyWhenNoRowMatches :
    (∃ s, State.run s = .running ∧ FetchAllowed s ∧ ∀ r ∈ opcodeTable, r.matchesWord (wordAtPc s) = false) ∧
    (∃ s, State.run s = .running ∧ FetchAllowed s ∧ ¬ ∀ r ∈ opcodeTable, r.matchesWord (wordAtPc s) = false) :=
  ⟨⟨illegalState, rfl, fetchAllowed_of (by decide), by decide⟩, ⟨ecallState, rfl, fetchAllowed_of (by decide), by decide⟩⟩

theorem clock_illegalState : (clock illegalState).1 = .fault (.illegalInstruction 0#32 0#32) := by
  rw [clock, eq_fault (o := step illegalState) (f := .illegalInstruction 0#32 0#32) (by decide)]
theorem witness_FaultCommitsNothing : ∃ s f, (clock s).1 = .fault f := ⟨_, _, clock_illegalState⟩
theorem witness_FaultRepeatsForEver : ∃ s f, (clock s).1 = .fault f := ⟨_, _, clock_illegalState⟩

/-- `n` cycles in Running with no alternate program counter, computed. -/
def straight : Nat → State → Bool
  | 0, _ => true
  | n + 1, s => s.run == .running &&
      (match controlSignals (wordAtPc s) with
        | some c => !takeAlternate c (s.readReg (rs1Of (wordAtPc s))) (s.readReg (rs2Of (wordAtPc s)))
        | none => true) &&
      nextAnd (step s) (straight n)

theorem straightLine_of : ∀ {n : Nat} {s : State}, straight n s = true → StraightLine n s := by
  intro n
  induction n with
  | zero => intro s _; trivial
  | succ n ih =>
    intro s h
    rw [straight, Bool.and_eq_true, Bool.and_eq_true] at h
    obtain ⟨⟨hr, hc⟩, hn⟩ := h
    obtain ⟨t, ht, hp⟩ := exists_next hn
    refine ⟨by simpa using hr, ?_, t, ht, ih hp⟩
    rintro ⟨c, hs, htk⟩
    rw [hs] at hc
    simp [htk] at hc

/-- A plain instruction, a taken jump, a fault, a halted state, and S2: three `ADDI x0, x0, 0` from 0x100 on. -/
theorem witness_ProgramCounterUpdate :
    (∃ s t c, State.run s = .running ∧ step s = .next t ∧ controlSignals (wordAtPc s) = some c) ∧
    (∃ s t c, State.run s = .running ∧ step s = .next t ∧ controlSignals (wordAtPc s) = some c ∧ ∀ a b, takeAlternate c a b = true) ∧
    (∃ s f, (clock s).1 = .fault f) ∧ (∃ s, State.run s ≠ .running) ∧ StraightLine 3 (mk 0x100 [] nop3) := by
  obtain ⟨t, h, -⟩ := exists_next (o := step swState) (p := fun _ => true) (by decide)
  obtain ⟨u, g, -⟩ := exists_next (o := run1 (mk 0 [] []) 0x002000EF) (p := fun _ => true) (by decide)
  refine ⟨⟨swState, t, _, rfl, h, rfl⟩, ⟨_, u, ⟨.pc, .immediate, .add, .eq, false, true, true, .pcPlus4, .none, false⟩, rfl, g, ?_, ?_⟩,
    ⟨_, _, clock_illegalState⟩, ⟨{ swState with run := .halted }, nofun⟩, straightLine_of (by decide)⟩
  · decide
  · intro a b; rfl

/-- Each premise of the frame: an instruction that completes, a register it does not name, a byte outside its store. -/
theorem witness_InstructionFrame : ∃ s t, exec (.sw 5 6 0) s = .next t ∧ destination (.sw 5 6 0) ≠ some 5 ∧
    dataAccess s (.sw 5 6 0) = some (.store, 0x100#32, .word) ∧ transfersControl (.sw 5 6 0) = false ∧
    (∀ a w, dataAccess s (.sw 5 6 0) = some (.store, a, w) → 0x104 < a.toNat ∨ a.toNat + w.bytes ≤ 0x104) := by
  obtain ⟨t, h, -⟩ := exists_next (o := exec (.sw 5 6 0) swState) (p := fun _ => true) (by decide)
  exact ⟨swState, t, h, by decide, by decide, by decide, by rintro a w ⟨⟩; exact Or.inr (by decide)⟩

/-- No access; an allowed access; a fault. -/
theorem witness_OnlyDataAccessesFault :
    (∃ s, ∀ k a w, dataAccess s (.add 1 2 3) = some (k, a, w) → a.toNat % w.bytes = 0 ∧ BytesExist s a.toNat w.bytes) ∧
    (∃ s, ∀ k a w, dataAccess s (.sw 5 6 0) = some (k, a, w) → a.toNat % w.bytes = 0 ∧ BytesExist s a.toNat w.bytes) ∧
    (∃ s f, exec (.lw 3 1 1) s = .fault f) :=
  ⟨⟨swState, nofun⟩, ⟨swState, by rintro k a w ⟨⟩; exact ⟨by decide, bytesExist_of (by decide)⟩⟩,
   ⟨loads, .memoryAccess .load .misaligned 0x101#32 .word 0#32, eq_fault (by decide)⟩⟩

theorem witness_TraceNeverFeedsBack : (∃ s t, step s = .next t) ∧ ∃ s f, step s = .fault f := by
  obtain ⟨t, h, -⟩ := exists_next (o := step ecallState) (p := fun _ => true) (by decide)
  exact ⟨⟨_, t, h⟩, ⟨illegalState, .illegalInstruction 0#32 0#32, eq_fault (by decide)⟩⟩
theorem witness_RestoreRewinds : ∃ s u : State, u.cfg = s.cfg ∧ u ≠ s := ⟨swState, ecallState, by decide, by decide⟩
theorem witness_DecodeInvertsEncode : Instr.wf (.beq 1 2 (-4096)) = true ∧ Instr.wf (.jal 1 1048574) = true := by decide
theorem witness_EncodeInvertsDecode : ∃ w i, decodeWord w = .ok i ∧ i ≠ .ecall := ⟨0x00500093#32, .addi 1 0 5, rfl, nofun⟩
theorem witness_OpcodeTableRowsAreDisjoint : ∃ w, ∃ r ∈ opcodeTable, ∃ q ∈ opcodeTable,
    r.matchesWord w = true ∧ q.matchesWord w = true :=
  ⟨0x00500093#32, ⟨"ADDI", 0x00000013#32, 0x0000707F#32⟩, by decide, ⟨"ADDI", 0x00000013#32, 0x0000707F#32⟩, by decide, rfl, rfl⟩

end Sys2Proof.Tests
end

section
/-!
PROOFS. The invariant of the machine's data (spec/00_scope.md rules R7, R8): it holds after reset, it depends on memory and
configuration alone, and every operation of the caller keeps it. The only operation that changes memory by an instruction is a
store, whose access check says that the addresses it lists exist.
-/

namespace Sys2Proof.Machine

/-! ## After reset -/

theorem configWf_iff {c : Config} :
    configWf c = true ↔ Memory.wf c.memInit = true ∧ (∀ e ∈ c.memInit, addressExists c e.1 = true) ∧
      c.pcReset.toNat % 4 = 0 := by
  simp only [configWf, Bool.and_eq_true, List.all_eq_true, decide_eq_true_eq, and_assoc]

theorem configWf_default : configWf Config.default = true := by decide

theorem State.inv_ofConfig {c : Config} (h : configWf c = true) : (State.ofConfig c).Inv := by
  obtain ⟨hwf, hex, -⟩ := configWf_iff.mp h
  exact ⟨hwf, hex, h⟩

/-! ## What keeps the invariant -/

/-- The invariant speaks of memory and configuration alone. -/
theorem State.Inv.of_mem_cfg {s t : State} (h : s.Inv) (hm : t.mem = s.mem) (hc : t.cfg = s.cfg) : t.Inv where
  canonical := hm ▸ h.canonical
  existing  := hc ▸ hm ▸ h.existing
  config    := hc ▸ h.config

/-- A store lists no address but those memory had and the store's own. -/
theorem Memory.mem_store {m : Memory} {a : Nat} {w : Width} {v : BitVec w.bits} {c : Host.Cell} (h : c ∈ m.store a w v) :
    c ∈ m ∨ (a ≤ c.1 ∧ c.1 < a + w.bytes) := by
  simpa only [bytesOf_length] using Memory.mem_writeBytes _ h

/-- A store whose access is allowed keeps the invariant, wherever the program counter goes (R45, R47). -/
theorem State.Inv.store {s : State} (h : s.Inv) {a : Word} {w : Width} (v : BitVec w.bits) (pc : Word)
    (ha : accessFault s .store a w = none) : ({ s with mem := s.mem.store a.toNat w v, pc := pc } : State).Inv where
  canonical := Memory.wf_store _ _ _ h.canonical
  existing c hc := by
    obtain ⟨-, hrange⟩ := accessFault_none_iff.mp ha
    rcases Memory.mem_store hc with hold | ⟨hlo, hhi⟩
    · exact h.existing c hold
    · exact addressExists_of_range hrange hlo hhi
  config := h.config

theorem Commit.keeps_inv {i : Instr} {s t : State} (hc : Commit i s t) (h : s.Inv) : t.Inv := by
  cases hc with
  | reg | pc | ecall => exact h.of_mem_cfg rfl rfl
  | store a w v _ ha => exact h.store v _ ha

theorem step_keeps_inv {s t : State} (h : s.Inv) (hst : step s = .next t) : t.Inv := by
  rcases step_next hst with ⟨-, rfl⟩ | ⟨-, rfl⟩ | ⟨-, i, -, hexec⟩
  · exact h
  · exact h.of_mem_cfg rfl rfl
  · exact (exec_next hexec).keeps_inv h

/-! ## The operations of the caller (R8) -/

/-- The state after a step as the caller sees it: the next state, or on a fault the state before (R214). -/
theorem clock_snd_cases (s : State) : step s = .next (clock s).2 ∨ (clock s).2 = s := by
  unfold clock
  cases step s with
  | next t => exact .inl rfl
  | fault f => exact .inr rfl
  | refused r => exact .inr rfl

theorem State.Inv.clock {s : State} (h : s.Inv) : (clock s).2.Inv := by
  rcases clock_snd_cases s with hnext | hsame
  · exact step_keeps_inv h hnext
  · rwa [hsame]

theorem State.Inv.hostReset {s : State} (h : s.Inv) : s.hostReset.Inv :=
  (State.inv_ofConfig h.config).of_mem_cfg rfl rfl

/-- A restored state takes its memory from the snapshot and keeps the configuration in force (R247). -/
theorem State.Inv.restore {s : State} {p : Snapshot} (h : s.Inv) (hp : p.Fits s.cfg) : (s.restore p).Inv where
  canonical := hp.canonical
  existing  := hp.existing
  config    := h.config

/-! ## The obligations -/

/-- Settles O5, by the operations of the caller: each keeps the invariant by its own lemma. -/
theorem hostOperationsKeepInvariant : Obligations.HostOperationsKeepInvariant := by
  intro s op h hfits
  cases op with
  | step => exact h.clock
  | reset => exact h.hostReset
  | capture => exact h
  | restore p => exact h.restore (hfits p rfl)

/-- Settles O3: the default configuration is one of those rule R7 allows, and each of them starts in the invariant. -/
theorem resetMeetsInvariant : Obligations.ResetMeetsInvariant :=
  ⟨State.inv_ofConfig configWf_default, fun _ => State.inv_ofConfig⟩

end Sys2Proof.Machine
end

section
/-!
PROOFS. The fields of the state (spec/10_state.md section 1): memory in canonical form is determined by what it reads, the default
reset state, and address arithmetic modulo 2^32 (R18).
-/

namespace Sys2Proof.Machine

/-! ## The canonical form of memory -/

theorem Memory.wfFrom_cons_iff {lo k : Nat} {b : Byte} {m : Memory} :
    Memory.wfFrom lo ((k, b) :: m) = true ↔ lo ≤ k ∧ b ≠ Memory.background ∧ Memory.wfFrom (k + 1) m = true := by
  simp [Memory.wfFrom, and_assoc]

@[simp] theorem Memory.read_cons_same (k : Nat) (b : Byte) (m : Memory) : Memory.read ((k, b) :: m) k = b := if_pos rfl

theorem Memory.read_cons_other {k a : Nat} (b : Byte) (m : Memory) (h : a ≠ k) : Memory.read ((k, b) :: m) a = m.read a :=
  if_neg h

/-- Below the address its canonical form starts from, memory reads the background. -/
theorem Memory.read_below {m : Memory} : ∀ {lo a : Nat}, Memory.wfFrom lo m = true → a < lo →
    m.read a = Memory.background := by
  induction m with
  | nil => intro lo a _ _; rfl
  | cons c m ih =>
    intro lo a hwf ha
    obtain ⟨k, b⟩ := c
    obtain ⟨hlo, -, htail⟩ := Memory.wfFrom_cons_iff.mp hwf
    rw [Memory.read_cons_other b m (by omega)]
    exact ih htail (by omega)

/-- A memory that reads like one listing `k` first starts no later than `k`, because the byte at `k` is not the background. -/
theorem Memory.start_le_of_read_eq_cons {m n : Memory} {lo k : Nat} {b : Byte} (hb : b ≠ Memory.background)
    (hn : Memory.wfFrom lo n = true) (h : ∀ a, n.read a = Memory.read ((k, b) :: m) a) : lo ≤ k := by
  by_contra hlt
  have hk : n.read k = b := by rw [h, Memory.read_cons_same]
  exact hb (hk ▸ Memory.read_below hn (by omega))

/-- Two memories with the same first entry read alike only if their rests do. -/
theorem Memory.read_tail_eq {m n : Memory} {k : Nat} {b : Byte} (hm : Memory.wfFrom (k + 1) m = true)
    (hn : Memory.wfFrom (k + 1) n = true) (h : ∀ a, Memory.read ((k, b) :: m) a = Memory.read ((k, b) :: n) a) (a : Nat) :
    m.read a = n.read a := by
  by_cases hak : a = k
  · rw [Memory.read_below hm (by omega), Memory.read_below hn (by omega)]
  · simpa only [Memory.read_cons_other b _ hak] using h a

/-- Canonical memories that read alike are equal, wherever each starts. -/
theorem Memory.eq_of_read_eq {m : Memory} : ∀ {n : Memory} {lo lo' : Nat}, Memory.wfFrom lo m = true →
    Memory.wfFrom lo' n = true → (∀ a, m.read a = n.read a) → m = n := by
  induction m with
  | nil =>
    intro n lo lo' _ hn h
    cases n with
    | nil => rfl
    | cons d n =>
      obtain ⟨k, b⟩ := d
      obtain ⟨-, hb, -⟩ := Memory.wfFrom_cons_iff.mp hn
      exact absurd (Memory.start_le_of_read_eq_cons (lo := k + 1) hb rfl h) (by omega)
  | cons c m ih =>
    intro n lo lo' hm hn h
    obtain ⟨k, b⟩ := c
    obtain ⟨-, hb, hmtail⟩ := Memory.wfFrom_cons_iff.mp hm
    cases n with
    | nil => exact absurd (Memory.start_le_of_read_eq_cons (lo := k + 1) hb rfl fun a => (h a).symm) (by omega)
    | cons d n =>
      obtain ⟨k', b'⟩ := d
      obtain ⟨-, hb', hntail⟩ := Memory.wfFrom_cons_iff.mp hn
      have hle : k ≤ k' :=
        Memory.start_le_of_read_eq_cons hb' (Memory.wfFrom_cons_iff.mpr ⟨le_rfl, hb, hmtail⟩) h
      have hge : k' ≤ k :=
        Memory.start_le_of_read_eq_cons hb (Memory.wfFrom_cons_iff.mpr ⟨le_rfl, hb', hntail⟩) fun a => (h a).symm
      obtain rfl : k = k' := Nat.le_antisymm hle hge
      obtain rfl : b = b' := by simpa only [Memory.read_cons_same] using h k
      rw [ih hmtail hntail (Memory.read_tail_eq hmtail hntail h)]

/-- Settles O6, by induction along both lists: their first entries agree, since each address listed reads a byte that is not the
background. -/
theorem canonicalMemoriesReadingAlikeAreEqual : Obligations.CanonicalMemoriesReadingAlikeAreEqual :=
  fun _ _ hm hn h => Memory.eq_of_read_eq hm hn h

/-! ## The default reset state -/

theorem State.readReg_reset : ∀ r : Reg, State.reset.readReg r = 0#32 := by decide

theorem addressExists_default_iff (a : Nat) : addressExists Config.default a = true ↔ a < 0x10000 := by
  simp only [addressExists, Config.default, regionHolds, List.any_cons, List.any_nil, Bool.or_false, Bool.and_eq_true,
    decide_eq_true_eq]
  omega

/-- Settles O2: the fields are the default configuration's own, and its one region is 0x0000 to 0xFFFF. -/
theorem resetStateDefaults : Obligations.ResetStateDefaults :=
  ⟨rfl, State.readReg_reset, Memory.read_nil, rfl, rfl, addressExists_default_iff⟩

/-! ## Address arithmetic (R18) -/

theorem State.pcPlus4_toNat (s : State) : s.pcPlus4.toNat = (s.pc.toNat + 4) % 2 ^ 32 := BitVec.toNat_add s.pc 4#32

theorem State.pcPlus4_aligned {s : State} (h : s.pc.toNat % 4 = 0) : s.pcPlus4.toNat % 4 = 0 := by
  rw [s.pcPlus4_toNat]; omega

theorem State.effectiveAddress_toNat (s : State) (rs1 : Reg) (imm : Word) :
    ((s.effectiveAddress rs1 imm).toNat : Int) = ((s.readReg rs1).toNat + imm.toInt) % 2 ^ 32 := toNat_add_eq_emod ..

/-- Settles O21: a sum of words is modular, and sign extension keeps the displacement's value. -/
theorem addressArithmeticWraps : Obligations.AddressArithmeticWraps := by
  intro s rs1 imm
  refine ⟨s.pcPlus4_toNat, ?_, ?_⟩
  · rw [s.effectiveAddress_toNat, immI_toInt]
  · rw [s.effectiveAddress_toNat, immS_toInt]

end Sys2Proof.Machine
end

section
/-!
PROOFS. A misaligned program counter (R17, R213): a step in Running starts from an aligned one, `pc + 4` keeps it aligned, and only
branches and jumps go elsewhere, so the misaligned target is theirs, and the next fetch reports it.
-/

namespace Sys2Proof.Machine

theorem fetchInstr_of_fault {s : State} {f : Fault} (h : accessFault s .fetch s.pc .word = some f) :
    fetchInstr s = .error f := by
  simp [fetchInstr, fetchWord, memRead_of_fault h]

theorem step_of_misaligned {s : State} (hr : s.run = .running) (h : s.pc.toNat % 4 ≠ 0) :
    step s = .fault (.memoryAccess .fetch .misaligned s.pc .word s.pc) :=
  step_running_error hr (fetchInstr_of_fault (accessFault_misaligned h))

theorem clock_of_fault {s : State} {f : Fault} (h : step s = .fault f) : clock s = (.fault f, s) := by simp [clock, h]

theorem clock_of_next {s t : State} (h : step s = .next t) :
    clock s = (if s.run = .halted then .halted else .ok, t) := by simp [clock, h]

/-- What commits a misaligned program counter from an aligned one is a branch or a jump, and it keeps the run state. -/
theorem Commit.of_misaligned {i : Instr} {s t : State} (hc : Commit i s t) (hs : s.pc.toNat % 4 = 0)
    (ht : t.pc.toNat % 4 ≠ 0) : transfersControl i = true ∧ t.run = s.run := by
  cases hc with
  | reg rd v target _ hnext =>
    refine ⟨?_, rfl⟩
    by_contra hi
    exact ht (hnext (Bool.eq_false_iff.mpr hi) ▸ State.pcPlus4_aligned hs)
  | pc _ hi => exact ⟨hi, rfl⟩
  | store | ecall => exact absurd (State.pcPlus4_aligned hs) ht

/-- Settles O31: the fetch says that the program counter was aligned, the commit that the instruction transfers control. -/
theorem misalignedTargetFaultsAtNextFetch : Obligations.MisalignedTargetFaultsAtNextFetch := by
  intro s t hrun hstep hpc
  rcases step_next hstep with ⟨hr, -⟩ | ⟨hr, -⟩ | ⟨-, i, hfetch, hexec⟩
  · rw [hrun] at hr; cases hr
  · rw [hrun] at hr; cases hr
  · obtain ⟨hallowed, -⟩ := fetchInstr_ok_iff.mp hfetch
    obtain ⟨haligned, -⟩ := accessFault_none_iff.mp hallowed
    obtain ⟨htransfers, hkeeps⟩ := (exec_next hexec).of_misaligned haligned hpc
    have ht : t.run = .running := hkeeps.trans hrun
    exact ⟨haligned, ⟨i, hfetch, htransfers⟩, ht, clock_of_fault (step_of_misaligned ht hpc)⟩

end Sys2Proof.Machine
end

section
/-!
PROOFS. The cycle of the datapath (spec/40_datapath.md rules R90 to R99) is the instruction's meaning: on a word of each class
`evaluate` is that class's shared operation, and so on a word that decodes it is `exec` of the instruction read.
-/

namespace Sys2Proof.Machine

/-! ## By class (R95) -/

section
variable {w : Word} (s : State)

theorem evaluate_op {op : AluOp} (hk : classOf (opcodeOf w) = some .op)
    (ha : aluOpOfOp (funct7Of w) (funct3Of w) = some op) :
    evaluate s w = registerOp op (rdOf w) (rs1Of w) (rs2Of w) s := by
  simp only [evaluate, controlSignals, hk, ha]; rfl

theorem evaluate_opImm {op : AluOp} (hk : classOf (opcodeOf w) = some .opImm)
    (ha : aluOpOfOpImm (funct7Of w) (funct3Of w) = some op) :
    evaluate s w = immediateOp op (rdOf w) (rs1Of w) (immI (immIOf w)) s := by
  simp only [evaluate, controlSignals, immediate, hk, ha]; rfl

theorem evaluate_load {op : MemOp} {width : Width} {extend : BitVec width.bits → Word}
    (hk : classOf (opcodeOf w) = some .load) (hm : memOpOfLoad (funct3Of w) = some op)
    (hs : ∀ a r2, memoryStage s op a r2 = stageLoad s width extend a) :
    evaluate s w = loadOp width extend (rdOf w) (rs1Of w) (immI (immIOf w)) s := by
  simp only [evaluate, controlSignals, immediate, hk, hm, operand1, operand2, hs, stageLoad, loadOp,
    State.effectiveAddress, immI, immIOf]
  cases memRead s .load _ width <;> rfl

theorem evaluate_store {op : MemOp} {width : Width} (hk : classOf (opcodeOf w) = some .store)
    (hm : memOpOfStore (funct3Of w) = some op) (hs : ∀ a r2, memoryStage s op a r2 = stageStore s width a r2) :
    evaluate s w = storeOp width (rs2Of w) (rs1Of w) (immS (immSOf w)) s := by
  simp only [evaluate, controlSignals, immediate, hk, hm, operand1, operand2, hs, stageStore, storeOp,
    State.effectiveAddress, immS, immSOf]
  cases memWrite s _ width _ <;> rfl

theorem evaluate_branch {c : Comparison} (hk : classOf (opcodeOf w) = some .branch)
    (hc : comparisonOfBranch (funct3Of w) = some c) :
    evaluate s w = branchOp c (rs1Of w) (rs2Of w) (immBOf w) s := by
  simp only [evaluate, controlSignals, immediate, hk, hc, memoryStage, commitCycle, takeAlternate, Bool.true_and,
    Bool.or_false]
  rfl

theorem evaluate_jal (hk : classOf (opcodeOf w) = some .jal) : evaluate s w = execJal (rdOf w) (immJOf w) s := by
  simp only [evaluate, controlSignals, immediate, hk]; rfl

theorem evaluate_jalr (hk : classOf (opcodeOf w) = some .jalr) (h3 : funct3Of w = 0b000#3) :
    evaluate s w = execJalr (rdOf w) (rs1Of w) (immIOf w) s := by
  simp only [evaluate, controlSignals, immediate, hk, if_pos h3]; rfl

theorem evaluate_lui (hk : classOf (opcodeOf w) = some .lui) : evaluate s w = execLui (rdOf w) (immUOf w) s := by
  simp only [evaluate, controlSignals, immediate, hk]; rfl

theorem evaluate_auipc (hk : classOf (opcodeOf w) = some .auipc) : evaluate s w = execAuipc (rdOf w) (immUOf w) s := by
  simp only [evaluate, controlSignals, immediate, hk]; rfl

theorem evaluate_system (hk : classOf (opcodeOf w) = some .system) : evaluate s w = execEcall s := by
  simp only [evaluate, controlSignals, hk]; rfl

end

/-! ## Every instruction -/

/-- An immediate shift's I immediate is its `funct7` above its shift amount (R71). -/
theorem immI_immIOf_eq_immShift (w : Word) : immI (immIOf w) = immShift (funct7Of w) (shamtOf w) := by
  unfold immShift
  congr 1
  apply BitVec.eq_of_toNat_eq
  rw [toNat_append_eq, funct7Of_toNat, shamtOf_toNat, immIOf_toNat]
  omega

/-- The datapath runs what the decoder reads: one case for each instruction, by its class. -/
theorem evaluate_eq_exec {w : Word} {i : Instr} (s : State) (h : decodeWord w = .ok i) : evaluate s w = exec i s := by
  apply decodeWord_ok_cases (P := fun i => evaluate s w = exec i s) h
  case add | sub | sll | slt | sltu | xor | srl | sra | or | and | mul | mulh | mulhsu | mulhu | div | divu | rem | remu =>
    exact fun hop h7 h3 => evaluate_op s (by rw [hop]; rfl) (by rw [h7, h3]; rfl)
  case addi | slti | sltiu | xori | ori | andi =>
    exact fun hop h3 => evaluate_opImm s (by rw [hop]; rfl) (by rw [h3]; rfl)
  case slli | srli | srai =>
    intro hop h7 h3
    rw [evaluate_opImm s (by rw [hop]; rfl) (by rw [h7, h3]; rfl), immI_immIOf_eq_immShift, h7]; rfl
  case lb | lh | lw | lbu | lhu =>
    exact fun hop h3 => evaluate_load s (by rw [hop]; rfl) (by rw [h3]; rfl) fun _ _ => rfl
  case sb | sh | sw => exact fun hop h3 => evaluate_store s (by rw [hop]; rfl) (by rw [h3]; rfl) fun _ _ => rfl
  case beq | bne | blt | bge | bltu | bgeu =>
    exact fun hop h3 => evaluate_branch s (by rw [hop]; rfl) (by rw [h3]; rfl)
  case jal => exact fun hop => evaluate_jal s (by rw [hop]; rfl)
  case jalr => exact fun hop h3 => evaluate_jalr s (by rw [hop]; rfl) h3
  case lui => exact fun hop => evaluate_lui s (by rw [hop]; rfl)
  case auipc => exact fun hop => evaluate_auipc s (by rw [hop]; rfl)
  case ecall => exact fun hop => evaluate_system s (by rw [hop]; rfl)

/-! ## What a cycle of the datapath commits -/

/-- The ALU result of a cycle (R99, R100). -/
def aluResult (s : State) (w : Word) (c : ControlSignals) : Word :=
  alu c.aluOp (operand1 c s.pc (s.readReg (rs1Of w))) (operand2 c (s.readReg (rs2Of w)) (immediate w))

/-- The inversion of `evaluate`: a cycle that commits has control signals and a memory stage that answers. -/
theorem evaluate_next {s t : State} {w : Word} (h : evaluate s w = .next t) :
    ∃ c mdata m, controlSignals w = some c ∧ memoryStage s c.memOp (aluResult s w c) (s.readReg (rs2Of w)) = .ok (mdata, m) ∧
      t = commitCycle s w c (aluResult s w c) mdata (s.readReg (rs1Of w)) (s.readReg (rs2Of w)) m := by
  unfold evaluate at h
  cases hc : controlSignals w with
  | none => rw [hc] at h; cases h
  | some c =>
    rw [hc] at h
    dsimp only at h
    split at h
    · cases h
    · next hm => cases h; exact ⟨c, _, _, rfl, hm, rfl⟩

/-- The program counter after the clock edge (R121, R122). -/
theorem commitCycle_pc (s : State) (w : Word) (c : ControlSignals) (res mdata r1 r2 : Word) (m : Memory) :
    (commitCycle s w c res mdata r1 r2 m).pc = if takeAlternate c r1 r2 then res else s.pcPlus4 := rfl

end Sys2Proof.Machine
end

section
/-!
PROOFS. The next program counter in every kind of cycle (R16): of a committing cycle from the datapath's clock edge, of a run of
straight-line cycles by induction on their number.
-/

namespace Sys2Proof.Machine
open Sys2Proof.Claims

/-! ## Cycles in Running -/

theorem littleEndian_word (m : Memory) (a : Nat) : littleEndian m a 4 = (m.load a .word).toNat := by
  rw [Memory.load_word_toNat]
  simp only [littleEndian, Nat.add_assoc, Nat.reduceAdd]
  omega

theorem wordAtPc_eq_load (s : State) : wordAtPc s = s.mem.load s.pc.toNat .word := by
  rw [wordAtPc, littleEndian_word, BitVec.ofNat_toNat]
  exact BitVec.setWidth_eq _

/-- A step in Running that commits is a cycle of the datapath on the word at the program counter. -/
theorem evaluate_wordAtPc_of_step {s t : State} (hr : s.run = .running) (h : step s = .next t) :
    evaluate s (wordAtPc s) = .next t := by
  rcases step_next h with ⟨hr', -⟩ | ⟨hr', -⟩ | ⟨-, i, hfetch, hexec⟩
  · rw [hr] at hr'; cases hr'
  · rw [hr] at hr'; cases hr'
  · obtain ⟨-, hdecode⟩ := fetchInstr_ok_iff.mp hfetch
    rw [wordAtPc_eq_load, evaluate_eq_exec s hdecode, hexec]

/-- The program counter a step in Running commits (R121, R122). -/
theorem step_running_pc {s t : State} (hr : s.run = .running) (h : step s = .next t) :
    ∃ c, controlSignals (wordAtPc s) = some c ∧
      t.pc = if takeAlternate c (s.readReg (rs1Of (wordAtPc s))) (s.readReg (rs2Of (wordAtPc s)))
        then aluResult s (wordAtPc s) c else s.pcPlus4 := by
  obtain ⟨c, mdata, m, hc, -, rfl⟩ := evaluate_next (evaluate_wordAtPc_of_step hr h)
  exact ⟨c, hc, commitCycle_pc ..⟩

theorem step_pc_of_not_takesAlternate {s t : State} (hr : s.run = .running) (hn : ¬ TakesAlternate s) (h : step s = .next t) :
    t.pc = s.pcPlus4 := by
  obtain ⟨c, hc, hpc⟩ := step_running_pc hr h
  rw [hpc, if_neg fun htaken => hn ⟨c, hc, htaken⟩]

/-! ## Cycles that leave the program counter -/

theorem clock_snd_of_fault {s : State} {f : Fault} (h : (clock s).1 = .fault f) : (clock s).2 = s := by
  rcases clock_snd_cases s with hnext | hsame
  · rw [clock_of_next hnext] at h
    split at h <;> cases h
  · exact hsame

theorem clock_pc_of_not_running {s : State} (h : s.run ≠ .running) : (clock s).2.pc = s.pc := by
  cases hr : s.run with
  | running => exact absurd hr h
  | haltPending => rw [clock_of_next (step_haltPending hr)]; rfl
  | halted => rw [clock_of_next (step_halted hr)]

/-! ## Runs -/

theorem run_succ_of_next {s t : State} (n : Nat) (h : step s = .next t) :
    Sys2Proof.core.run (n + 1) s = Sys2Proof.core.run n t := by
  have hcore : Sys2Proof.core.step s = .next t := h
  simp only [Host.Core.run, hcore]

/-- `n` straight-line cycles advance the program counter by `4n`, modulo 2^32. -/
theorem straightLine_run_pc : ∀ {n : Nat} {s : State}, StraightLine n s →
    ∃ t, Sys2Proof.core.run n s = .next t ∧ t.pc = s.pc + BitVec.ofNat 32 (4 * n) := by
  intro n
  induction n with
  | zero => intro s _; exact ⟨s, rfl, (BitVec.add_zero s.pc).symm⟩
  | succ n ih =>
    intro s hline
    obtain ⟨hr, hn, t, hstep, hrest⟩ := hline
    obtain ⟨u, hrun, hpc⟩ := ih hrest
    refine ⟨u, (run_succ_of_next n hstep).trans hrun, ?_⟩
    calc u.pc = s.pc + 4#32 + BitVec.ofNat 32 (4 * n) := by
          rw [hpc, step_pc_of_not_takesAlternate hr hn hstep, State.pcPlus4]
      _ = s.pc + BitVec.ofNat 32 (4 * (n + 1)) := by
          rw [BitVec.add_assoc, ← BitVec.ofNat_add, Nat.mul_succ, Nat.add_comm 4]

/-- Settles O44: the clock edge of the datapath, the cycles that keep the program counter, and the induction over straight lines. -/
theorem programCounterUpdate : Obligations.ProgramCounterUpdate := by
  refine ⟨?_, ?_, ?_, ?_⟩
  · intro s t c hr hstep hc r1 r2 hr1 hr2
    obtain ⟨c', hc', hpc⟩ := step_running_pc hr hstep
    obtain rfl : c = c' := Option.some.inj (hc.symm.trans hc')
    subst hr1 hr2
    exact hpc
  · intro s f h
    rw [clock_snd_of_fault h]
  · intro s
    exact clock_pc_of_not_running
  · intro n s
    exact straightLine_run_pc

end Sys2Proof.Machine
end

section
/-!
PROOFS. One memory for code and data (spec/20_memory.md rules R43, R55): a word stored where the program counter points is the word
the fetch reads, and in Running the step is that word's meaning. An SW over the next instruction and the model's loader both store it.
-/

namespace Sys2Proof.Machine

/-! ## From the fetched word to the step (R43, R76, R211) -/

theorem step_of_fetchWord_decode {s : State} {w : Word} {i : Instr} (hr : s.run = .running) (hf : fetchWord s = .ok w)
    (hd : decodeWord w = .ok i) : step s = exec i s :=
  step_running_ok hr (by simp [fetchInstr, hf, hd])

theorem step_of_fetchWord_illegal {s : State} {w : Word} {e : DecodeError} (hr : s.run = .running) (hf : fetchWord s = .ok w)
    (hd : decodeWord w = .error e) : step s = .fault (.illegalInstruction w s.pc) :=
  step_running_error hr (by simp [fetchInstr, hf, hd])

/-- Whether an access is allowed depends on the configuration, the address and the width, not on what it is for (R44 to R47). -/
theorem accessFault_none_of_cfg {s t : State} {kind kind' : AccessKind} {a : Word} {w : Width} (hc : t.cfg = s.cfg)
    (h : accessFault s kind a w = none) : accessFault t kind' a w = none := by
  rw [accessFault_none_iff, hc]
  exact accessFault_none_iff.mp h

/-- A word stored at the program counter is the word fetched. -/
theorem fetchWord_of_store {s : State} {m : Memory} {w : Word} (hm : s.mem = m.store s.pc.toNat .word w)
    (ha : accessFault s .fetch s.pc .word = none) : fetchWord s = .ok w := by
  rw [fetchWord, memRead_of_none ha, hm, Memory.load_store]

/-! ## A store over the next instruction (R55) -/

theorem truncated_word (v : Word) : truncated .word v = v := BitVec.setWidth_eq v

/-- An SW that completes leaves its word to be fetched at its address: the store's check of the access is the fetch's. -/
theorem fetchWord_of_execSw {s t : State} {rs2 rs1 : Reg} {imm : BitVec 12} (h : exec (.sw rs2 rs1 imm) s = .next t)
    (hpc : s.effectiveAddress rs1 (immS imm) = t.pc) : fetchWord t = .ok (s.readReg rs2) := by
  obtain ⟨hallowed, ht⟩ := storeOp_next h
  rw [hpc] at hallowed
  rw [hpc, truncated_word] at ht
  have hmem : t.mem = s.mem.store t.pc.toNat .word (s.readReg rs2) := congrArg State.mem ht
  have hcfg : t.cfg = s.cfg := by rw [ht]
  exact fetchWord_of_store hmem (accessFault_none_of_cfg hcfg hallowed)

/-- Settles O27: the next cycle fetches the stored word, and in Running it runs the instruction the word decodes to. -/
theorem storeThenFetch : Obligations.StoreThenFetch := by
  intro s t rs2 rs1 imm h hpc
  have hfetch := fetchWord_of_execSw h hpc
  exact ⟨hfetch, fun i hr hd => step_of_fetchWord_decode hr hfetch hd⟩

/-! ## Placing an instruction for the next step (log entry 15) -/

/-- `withRange` makes a range of 32-bit addresses exist. -/
theorem rangeExists_withRange {c : Config} {a n : Nat} (h : a + n ≤ 2 ^ 32) : rangeExists (withRange c a n) a n = true := by
  unfold withRange
  split
  · assumption
  · refine rangeExists_of_addresses fun b hlo hhi => ?_
    simp only [addressExists, regionHolds, List.any_cons, hlo, hhi, decide_true, Bool.and_self, Bool.true_or, Bool.and_true,
      decide_eq_true_eq]
    omega

/-- Clearing the low two bits aligns an address to a word. -/
theorem and_clearLowTwo_aligned (a : Word) : (a &&& 0xFFFFFFFC#32).toNat % 4 = 0 := by
  rw [BitVec.toNat_and, show 4 = 2 ^ 2 from rfl, Nat.and_mod_two_pow]
  exact Nat.and_zero _

/-- The placed word can be fetched: the program counter is aligned and its four bytes exist. -/
theorem State.placeInstruction_fetchAllowed (s : State) (w : Word) :
    accessFault (s.placeInstruction w) .fetch (s.placeInstruction w).pc .word = none := by
  have haligned := and_clearLowTwo_aligned s.pc
  have hbound := (s.pc &&& 0xFFFFFFFC#32).isLt
  have hend : (s.pc &&& 0xFFFFFFFC#32).toNat + 4 ≤ 2 ^ 32 := by omega
  exact accessFault_none_iff.mpr ⟨haligned, rangeExists_withRange hend⟩

theorem fetchWord_placeInstruction (s : State) (w : Word) : fetchWord (s.placeInstruction w) = .ok w :=
  fetchWord_of_store rfl (s.placeInstruction_fetchAllowed w)

theorem State.withFetchWord_toNat (s : State) (w : Word) : s.withFetchWord 32 w.toNat = s.placeInstruction w := by
  rw [State.withFetchWord, Nat.mod_eq_of_lt w.isLt, BitVec.ofNat_toNat, BitVec.setWidth_eq]

/-- Settles O56: the placed word is fetched in Running, and what the step does with it depends on whether it decodes. -/
theorem placedInstructionRuns : Obligations.PlacedInstructionRuns := by
  intro s w
  rw [State.withFetchWord_toNat]
  have hr := s.placeInstruction_run w
  have hfetch := fetchWord_placeInstruction s w
  cases hd : decodeWord w with
  | ok i => exact step_of_fetchWord_decode hr hfetch hd
  | error e => exact step_of_fetchWord_illegal hr hfetch hd

end Sys2Proof.Machine
end

section
/-!
PROOFS. The opcode table (spec/30_encoding.md rules R74 to R78): its rows are pairwise disjoint, an instruction read from a word has
its row there, and a word that is rejected has none.
-/

namespace Sys2Proof

/-! ## No word matches two rows (R74) -/

theorem and_mask_eq_of_matchesWord {r : OpcodeRow} {w : Word} (h : r.matchesWord w = true) : w &&& r.mask = r.pattern :=
  beq_iff_eq.mp h

/-- The patterns of two rows differ in a bit that both masks cover. -/
def OpcodeRow.Conflict (r q : OpcodeRow) : Prop := r.pattern &&& q.mask ≠ q.pattern &&& r.mask

theorem OpcodeRow.conflict_symm : Std.Symm OpcodeRow.Conflict := ⟨fun _ _ h => h.symm⟩

/-- Rows in conflict match no word in common. -/
theorem OpcodeRow.not_conflict_of_matchesWord {r q : OpcodeRow} {w : Word} (hr : r.matchesWord w = true)
    (hq : q.matchesWord w = true) : ¬ r.Conflict q := by
  rw [OpcodeRow.Conflict, not_not, ← and_mask_eq_of_matchesWord hr, ← and_mask_eq_of_matchesWord hq,
    BitVec.and_assoc, BitVec.and_assoc, BitVec.and_comm r.mask]

theorem opcodeTable_pairwise_conflict : opcodeTable.Pairwise OpcodeRow.Conflict := by
  unfold OpcodeRow.Conflict
  decide

theorem row_eq_of_matchesWord {r q : OpcodeRow} {w : Word} (hr : r ∈ opcodeTable) (hq : q ∈ opcodeTable)
    (hrw : r.matchesWord w = true) (hqw : q.matchesWord w = true) : r = q := by
  by_contra hne
  have hsymm := OpcodeRow.conflict_symm
  exact OpcodeRow.not_conflict_of_matchesWord hrw hqw (opcodeTable_pairwise_conflict.forall hr hq hne)

/-- Settles O53: any two rows of the table are in conflict, so that a word matches one of them only. -/
theorem opcodeTableRowsAreDisjoint : Obligations.OpcodeTableRowsAreDisjoint :=
  ⟨rfl, fun _ _ hr _ hq => row_eq_of_matchesWord hr hq⟩

/-- The first row a word matches is the only one. -/
theorem find?_row_of_matchesWord {r : OpcodeRow} {w : Word} (hr : r ∈ opcodeTable) (hm : r.matchesWord w = true) :
    opcodeTable.find? (fun q => q.matchesWord w) = some r := by
  cases hf : opcodeTable.find? (fun q => q.matchesWord w) with
  | none => exact absurd hm (List.find?_eq_none.mp hf r hr)
  | some q =>
    have hq : q.matchesWord w = true := List.find?_some (p := fun q : OpcodeRow => q.matchesWord w) hf
    rw [row_eq_of_matchesWord (List.mem_of_find?_eq_some hf) hr hq hm]

/-! ## The row of an instruction (R75) -/

/-- The row of a given pattern. -/
def rowWithPattern (pattern : Word) : Option OpcodeRow := opcodeTable.find? fun r => r.pattern == pattern

theorem rowWithPattern_eq_some {pattern : Word} {r : OpcodeRow} (h : rowWithPattern pattern = some r) :
    r ∈ opcodeTable ∧ r.pattern = pattern :=
  ⟨List.mem_of_find?_eq_some h, beq_iff_eq.mp (List.find?_some (p := fun r : OpcodeRow => r.pattern == pattern) h)⟩

/-- The word matches a row of the instruction's name. -/
def HasRow (w : Word) (i : Instr) : Prop := ∃ r ∈ opcodeTable, r.mnemonic = i.mnemonic ∧ r.matchesWord w = true

section
variable {w : Word} {i : Instr} {op : BitVec 7} {f3 : BitVec 3} {f7 : BitVec 7} {r : OpcodeRow}

theorem hasRow_of_opcode (hop : opcodeOf w = op) (hr : rowWithPattern (0#25 ++ op) = some r) (hn : r.mnemonic = i.mnemonic)
    (hm : r.mask = 0x0000007F#32) : HasRow w i := by
  obtain ⟨hmem, hp⟩ := rowWithPattern_eq_some hr
  exact ⟨r, hmem, hn, by rw [OpcodeRow.matchesWord, hm, and_mask_opcode, hop, hp, beq_self_eq_true]⟩

theorem hasRow_of_funct3 (hop : opcodeOf w = op) (h3 : funct3Of w = f3)
    (hr : rowWithPattern (0#17 ++ f3 ++ 0#5 ++ op) = some r) (hn : r.mnemonic = i.mnemonic) (hm : r.mask = 0x0000707F#32) :
    HasRow w i := by
  obtain ⟨hmem, hp⟩ := rowWithPattern_eq_some hr
  exact ⟨r, hmem, hn, by rw [OpcodeRow.matchesWord, hm, and_mask_funct3, hop, h3, hp, beq_self_eq_true]⟩

theorem hasRow_of_funct7 (hop : opcodeOf w = op) (h7 : funct7Of w = f7) (h3 : funct3Of w = f3)
    (hr : rowWithPattern (f7 ++ 0#10 ++ f3 ++ 0#5 ++ op) = some r) (hn : r.mnemonic = i.mnemonic)
    (hm : r.mask = 0xFE00707F#32) : HasRow w i := by
  obtain ⟨hmem, hp⟩ := rowWithPattern_eq_some hr
  exact ⟨r, hmem, hn, by rw [OpcodeRow.matchesWord, hm, and_mask_funct7, hop, h7, h3, hp, beq_self_eq_true]⟩

/-- An instruction read from a word has its row: the one whose pattern is made of the fields it was read by. -/
theorem hasRow_of_decodeWord (h : decodeWord w = .ok i) : HasRow w i := by
  apply decodeWord_ok_cases (P := HasRow w) h
  case add | sub | sll | slt | sltu | xor | srl | sra | or | and | mul | mulh | mulhsu | mulhu | div | divu | rem | remu
      | slli | srli | srai =>
    exact fun hop h7 h3 => hasRow_of_funct7 hop h7 h3 rfl rfl rfl
  case addi | slti | sltiu | xori | ori | andi | lb | lh | lw | lbu | lhu | sb | sh | sw
      | beq | bne | blt | bge | bltu | bgeu | jalr =>
    exact fun hop h3 => hasRow_of_funct3 hop h3 rfl rfl rfl
  case jal | lui | auipc | ecall => exact fun hop => hasRow_of_opcode hop rfl rfl rfl

end

/-! ## The fields of a word that matches a row (R72, R73) -/

/-- The values of `funct3` that select in LOAD, STORE, BRANCH and JALR, the classes which it alone selects in. -/
def funct3Codes (op : BitVec 7) : List (BitVec 3) :=
  if op = 0x03#7 then [0b000#3, 0b001#3, 0b010#3, 0b100#3, 0b101#3]
  else if op = 0x23#7 then [0b000#3, 0b001#3, 0b010#3]
  else if op = 0x63#7 then [0b000#3, 0b001#3, 0b100#3, 0b101#3, 0b110#3, 0b111#3]
  else [0b000#3]

section
variable {w : Word} {r : OpcodeRow}

theorem opcodeOf_of_matchesWord (hr : r ∈ opcodeTable) (h : r.matchesWord w = true) : opcodeOf w = opcodeOf r.pattern := by
  have hmask : ∀ q ∈ opcodeTable, opcodeOf q.mask = BitVec.allOnes 7 := by decide
  exact opcodeOf_of_masked (and_mask_eq_of_matchesWord h) (hmask r hr)

theorem opcodeOf_mem_of_matchesWord (hr : r ∈ opcodeTable) (h : r.matchesWord w = true) :
    opcodeOf w ∈ [0x03#7, 0x13#7, 0x17#7, 0x23#7, 0x33#7, 0x37#7, 0x63#7, 0x67#7, 0x6F#7, 0x73#7] := by
  have hrows : ∀ q ∈ opcodeTable,
      opcodeOf q.pattern ∈ [0x03#7, 0x13#7, 0x17#7, 0x23#7, 0x33#7, 0x37#7, 0x63#7, 0x67#7, 0x6F#7, 0x73#7] := by decide
  rw [opcodeOf_of_matchesWord hr h]
  exact hrows r hr

theorem funct3Of_mem_of_matchesWord (hr : r ∈ opcodeTable) (h : r.matchesWord w = true)
    (hop : opcodeOf w ∈ [0x03#7, 0x23#7, 0x63#7, 0x67#7]) : funct3Of w ∈ funct3Codes (opcodeOf w) := by
  have hrows : ∀ q ∈ opcodeTable, opcodeOf q.pattern ∈ [0x03#7, 0x23#7, 0x63#7, 0x67#7] →
      funct3Of q.mask = BitVec.allOnes 3 ∧ funct3Of q.pattern ∈ funct3Codes (opcodeOf q.pattern) := by decide
  rw [opcodeOf_of_matchesWord hr h] at hop ⊢
  obtain ⟨hmask, hcode⟩ := hrows r hr hop
  rwa [funct3Of_of_masked (and_mask_eq_of_matchesWord h) hmask]

/-- OP-IMM: `funct7` selects among the shifts. -/
theorem opImm_fields_of_matchesWord (hr : r ∈ opcodeTable) (h : r.matchesWord w = true) (hop : opcodeOf w = 0x13#7) :
    (funct3Of w = 0b001#3 → funct7Of w = 0b0000000#7) ∧
    (funct3Of w = 0b101#3 → funct7Of w = 0b0000000#7 ∨ funct7Of w = 0b0100000#7) := by
  have hrows : ∀ q ∈ opcodeTable, opcodeOf q.pattern = 0x13#7 → funct3Of q.mask = BitVec.allOnes 3 ∧
      (funct3Of q.pattern = 0b001#3 → funct7Of q.mask = BitVec.allOnes 7 ∧ funct7Of q.pattern = 0b0000000#7) ∧
      (funct3Of q.pattern = 0b101#3 → funct7Of q.mask = BitVec.allOnes 7 ∧
        (funct7Of q.pattern = 0b0000000#7 ∨ funct7Of q.pattern = 0b0100000#7)) := by decide
  rw [opcodeOf_of_matchesWord hr h] at hop
  obtain ⟨hmask, hleft, hright⟩ := hrows r hr hop
  rw [funct3Of_of_masked (and_mask_eq_of_matchesWord h) hmask]
  refine ⟨fun h3 => ?_, fun h3 => ?_⟩
  · obtain ⟨hmask7, hcode⟩ := hleft h3
    rwa [funct7Of_of_masked (and_mask_eq_of_matchesWord h) hmask7]
  · obtain ⟨hmask7, hcode⟩ := hright h3
    rwa [funct7Of_of_masked (and_mask_eq_of_matchesWord h) hmask7]

/-- OP: `funct7` and `funct3` select. -/
theorem op_fields_of_matchesWord (hr : r ∈ opcodeTable) (h : r.matchesWord w = true) (hop : opcodeOf w = 0x33#7) :
    funct7Of w = 0b0000000#7 ∨ funct7Of w = 0b0000001#7 ∨
      funct7Of w = 0b0100000#7 ∧ (funct3Of w = 0b000#3 ∨ funct3Of w = 0b101#3) := by
  have hrows : ∀ q ∈ opcodeTable, opcodeOf q.pattern = 0x33#7 →
      funct3Of q.mask = BitVec.allOnes 3 ∧ funct7Of q.mask = BitVec.allOnes 7 ∧
      (funct7Of q.pattern = 0b0000000#7 ∨ funct7Of q.pattern = 0b0000001#7 ∨
        funct7Of q.pattern = 0b0100000#7 ∧ (funct3Of q.pattern = 0b000#3 ∨ funct3Of q.pattern = 0b101#3)) := by decide
  rw [opcodeOf_of_matchesWord hr h] at hop
  obtain ⟨hmask, hmask7, hcode⟩ := hrows r hr hop
  rwa [funct3Of_of_masked (and_mask_eq_of_matchesWord h) hmask, funct7Of_of_masked (and_mask_eq_of_matchesWord h) hmask7]

/-! ## Rejected words (R76, R77) -/

/-- A rejected word matches no row: its opcode is not in the table, or no row of its class has its minor fields. -/
theorem matchesWord_eq_false_of_error {e : DecodeError} (h : decodeWord w = .error e) (hr : r ∈ opcodeTable) :
    r.matchesWord w = false := by
  rw [← Bool.not_eq_true]
  intro hm
  rcases decodeWord_error h with
    ⟨hop, hload⟩ | ⟨hop, hopImm⟩ | ⟨hop, hstore⟩ | ⟨hop, h0, h1, h32⟩ | ⟨hop, hbranch⟩ | ⟨hop, hjalr⟩ | hunknown
  · have hcode := funct3Of_mem_of_matchesWord hr hm (by simp [hop])
    simp [hop, funct3Codes, hload] at hcode
  · obtain ⟨hleft, hright⟩ := opImm_fields_of_matchesWord hr hm hop
    rcases hopImm with ⟨h3, h0⟩ | ⟨h3, h0, h32⟩
    · exact h0 (hleft h3)
    · exact (hright h3).elim h0 h32
  · have hcode := funct3Of_mem_of_matchesWord hr hm (by simp [hop])
    simp [hop, funct3Codes, hstore] at hcode
  · rcases op_fields_of_matchesWord hr hm hop with h7 | h7 | ⟨h7, h3⟩
    · exact h0 h7
    · exact h1 h7
    · obtain ⟨hsub, hsra⟩ := h32 h7
      exact h3.elim hsub hsra
  · have hcode := funct3Of_mem_of_matchesWord hr hm (by simp [hop])
    simp [hop, funct3Codes, hbranch] at hcode
  · have hcode := funct3Of_mem_of_matchesWord hr hm (by simp [hop])
    simp [hop, funct3Codes, hjalr] at hcode
  · have hknown := opcodeOf_mem_of_matchesWord hr hm
    simp [hunknown] at hknown

end

/-- Settles O52: a word that is read has its instruction's row, which is the only one it matches; a rejected word has none. -/
theorem decoderAgreesWithOpcodeTable : Obligations.DecoderAgreesWithOpcodeTable := by
  intro w
  cases hd : decodeWord w with
  | ok i =>
    obtain ⟨r, hr, hname, hm⟩ := hasRow_of_decodeWord hd
    rw [find?_row_of_matchesWord hr hm, Option.map_some, hname]
  | error e =>
    rw [List.find?_eq_none.mpr fun r hr => by simp [matchesWord_eq_false_of_error hd hr], Option.map_none]

end Sys2Proof
end

section
/-!
PROOFS. A step in Running on an allowed fetch (spec/40_datapath.md section 1, spec/60_exceptions.md rule R211): it runs the
instruction the bytes at the program counter decode to, and IllegalInstruction is its answer exactly where the word has no row.
-/

namespace Sys2Proof.Machine
open Sys2Proof.Claims

theorem rangeExists_of_bytesExist {s : State} {a n : Nat} (h : BytesExist s a n) : rangeExists s.cfg a n = true := by
  refine rangeExists_of_addresses fun b hlo hhi => ?_
  obtain ⟨k, rfl⟩ := Nat.exists_eq_add_of_le hlo
  exact h k (by omega)

theorem fetchWord_of_fetchAllowed {s : State} (h : FetchAllowed s) : fetchWord s = .ok (wordAtPc s) := by
  obtain ⟨haligned, hexist⟩ := h
  rw [fetchWord, memRead_of_none (accessFault_none_iff.mpr ⟨haligned, rangeExists_of_bytesExist hexist⟩), wordAtPc_eq_load]

/-- What the decoder reads from four bytes is what it reads from their word. -/
theorem decodeWord_of_decode_bytes {b0 b1 b2 b3 : Byte} {i : Instr} (h : decode [b0, b1, b2, b3] = .ok (i, [])) :
    decodeWord (wordOfBytes b0 b1 b2 b3) = .ok i := by
  cases hd : decodeWord (wordOfBytes b0 b1 b2 b3) with
  | ok j => simp only [decode, hd] at h; cases h; rfl
  | error e => simp only [decode, hd] at h; cases h

/-- Settles O38: the four bytes are those of the fetched word. -/
theorem stepRunsTheDecodedInstruction : Obligations.StepRunsTheDecodedInstruction := by
  intro s i hr hf hd
  have hword : decodeWord (wordAtPc s) = .ok i := by
    rw [wordAtPc_eq_load]
    exact decodeWord_of_decode_bytes hd
  exact step_of_fetchWord_decode hr (fetchWord_of_fetchAllowed hf) hword

/-- A fault of an instruction is the fault of its own data access. -/
theorem exec_fault {i : Instr} {s : State} {f : Fault} (h : exec i s = .fault f) :
    ∃ kind a w, dataAccess s i = some (kind, a, w) ∧ accessFault s kind a w = some f := by
  cases i with
  | lb | lh | lw | lbu | lhu => exact ⟨_, _, _, rfl, loadOp_fault h⟩
  | sb | sh | sw => exact ⟨_, _, _, rfl, storeOp_fault h⟩
  | _ => cases h

theorem exec_ne_illegalInstruction (i : Instr) (s : State) (w pc : Word) : exec i s ≠ .fault (.illegalInstruction w pc) := by
  intro h
  obtain ⟨kind, a, width, -, hf⟩ := exec_fault h
  obtain ⟨r, hr, -⟩ := accessFault_some hf
  cases hr

/-- Settles O40: an instruction that is read has a row and raises another fault if any; a word that is rejected has no row. -/
theorem illegalExactlyWhenNoRowMatches : Obligations.IllegalExactlyWhenNoRowMatches := by
  intro s hr hf
  cases hd : decodeWord (wordAtPc s) with
  | ok i =>
    rw [step_of_fetchWord_decode hr (fetchWord_of_fetchAllowed hf) hd]
    obtain ⟨r, hmem, -, hm⟩ := hasRow_of_decodeWord hd
    exact iff_of_false (exec_ne_illegalInstruction i s _ _) fun hnone => by simp [hnone r hmem] at hm
  | error e =>
    exact iff_of_true (step_of_fetchWord_illegal hr (fetchWord_of_fetchAllowed hf) hd) fun r => matchesWord_eq_false_of_error hd

end Sys2Proof.Machine
end

section
/-!
PROOFS. The five immediates (spec/30_encoding.md rules R65 to R70): where each bit stands in the word, and the ranges of their values.
-/

namespace Sys2Proof.Machine

/-! ## The fields of the immediates, bit by bit (R66 to R70) -/

section
variable (w : Word) {k : Nat}

theorem immIOf_getLsbD (hk : k ≤ 11) : (immIOf w).getLsbD k = w.getLsbD (if k < 11 then k + 20 else 31) := by
  simp only [immIOf, BitVec.getLsbD_extractLsb']
  grind

theorem immSOf_getLsbD (hk : k ≤ 11) :
    (immSOf w).getLsbD k = w.getLsbD (if k < 5 then k + 7 else if k < 11 then k + 20 else 31) := by
  simp only [immSOf, BitVec.getLsbD_append, BitVec.getLsbD_extractLsb']
  grind

theorem immBOf_getLsbD (hk : k ≤ 12) :
    (immBOf w).getLsbD k = if k = 0 then false
      else w.getLsbD (if k < 5 then k + 7 else if k < 11 then k + 20 else if k = 11 then 7 else 31) := by
  simp only [immBOf, BitVec.getLsbD_append, BitVec.getLsbD_extractLsb']
  grind

theorem immJOf_getLsbD (hk : k ≤ 20) :
    (immJOf w).getLsbD k = if k = 0 then false
      else w.getLsbD (if k < 11 then k + 20 else if k = 11 then 20 else if k < 20 then k else 31) := by
  simp only [immJOf, BitVec.getLsbD_append, BitVec.getLsbD_extractLsb']
  grind

/-! ## The 32-bit immediates, bit by bit: sign extension repeats the top bit, bit 31 of the word -/

theorem immI_getLsbD (hk : k < 32) : (immI (immIOf w)).getLsbD k = w.getLsbD (if k < 11 then k + 20 else 31) := by
  rw [immI, getLsbD_signExtend_min _ hk, immIOf_getLsbD w (Nat.min_le_right ..)]
  grind

theorem immS_getLsbD (hk : k < 32) :
    (immS (immSOf w)).getLsbD k = w.getLsbD (if k < 5 then k + 7 else if k < 11 then k + 20 else 31) := by
  rw [immS, getLsbD_signExtend_min _ hk, immSOf_getLsbD w (Nat.min_le_right ..)]
  grind

theorem immB_getLsbD (hk : k < 32) :
    (immB (immBOf w)).getLsbD k = if k = 0 then false
      else w.getLsbD (if k < 5 then k + 7 else if k < 11 then k + 20 else if k = 11 then 7 else 31) := by
  rw [immB, getLsbD_signExtend_min _ hk, immBOf_getLsbD w (Nat.min_le_right ..)]
  grind

theorem immU_getLsbD (hk : k < 32) : (immU (immUOf w)).getLsbD k = if k < 12 then false else w.getLsbD k := by
  simp only [immU, immUOf, BitVec.getLsbD_append, BitVec.getLsbD_extractLsb']
  grind

theorem immJ_getLsbD (hk : k < 32) :
    (immJ (immJOf w)).getLsbD k = if k = 0 then false
      else w.getLsbD (if k < 11 then k + 20 else if k = 11 then 20 else if k < 20 then k else 31) := by
  rw [immJ, getLsbD_signExtend_min _ hk, immJOf_getLsbD w (Nat.min_le_right ..)]
  grind

end

/-! ## The ranges of the immediates -/

theorem toInt_even_of_evenOffset {n : Nat} {x : BitVec (n + 1)} (h : evenOffset x = true) : x.toInt % 2 = 0 := by
  rw [evenOffset_iff] at h
  rw [BitVec.toInt_eq_toNat_cond, Nat.pow_succ]
  split <;> omega

/-- An even offset stays one below the top of its range. -/
theorem evenOffset_bounds {n : Nat} {x : BitVec (n + 2)} (h : evenOffset x = true) :
    -2 ^ (n + 1) ≤ x.toInt ∧ x.toInt ≤ 2 ^ (n + 1) - 2 ∧ x.toInt % 2 = 0 := by
  have heven := toInt_even_of_evenOffset h
  have hlo : -2 ^ (n + 1) ≤ x.toInt := BitVec.le_toInt x
  have hhi : x.toInt < 2 ^ (n + 1) := BitVec.toInt_lt
  rw [Int.pow_succ] at hlo hhi ⊢
  exact ⟨hlo, by omega, heven⟩

/-- Settles O54: the bits format by format; the ranges are those of 12, 13 and 21 bits, the last two with bit 0 clear. -/
theorem immediateBits : Obligations.ImmediateBits := by
  intro w
  rw [immI_toInt, immS_toInt, immB_toInt, immJ_toInt]
  exact ⟨fun k hk => ⟨immI_getLsbD w hk, immS_getLsbD w hk, immB_getLsbD w hk, immU_getLsbD w hk, immJ_getLsbD w hk⟩,
    ⟨BitVec.le_toInt _, Int.le_of_lt_add_one BitVec.toInt_lt⟩, ⟨BitVec.le_toInt _, Int.le_of_lt_add_one BitVec.toInt_lt⟩,
    evenOffset_bounds (evenOffset_immBOf w), evenOffset_bounds (evenOffset_immJOf w)⟩

end Sys2Proof.Machine
end

section
/-!
PROOFS. The register-immediate instructions that add, combine and shift (spec/43_op_immediate.md): what such a cycle commits, and the
ALU's result as arithmetic.
-/

namespace Sys2Proof.Machine
open Sys2Proof.Claims

/-! ## What a register-immediate instruction commits (R95) -/

theorem completesTo_of_commitReg {i : Instr} {s : State} {rd : Reg} {v target : Word}
    (h : exec i s = commitReg rd v target s) : CompletesTo i s rd v target :=
  ⟨_, h, fun r => s.readReg_writeReg rd r v, rfl, fun _ => rfl, rfl, rfl, rfl⟩

theorem completes_of_immediateOp {i : Instr} {s : State} {op : AluOp} {rd rs1 : Reg} {imm : Word}
    (h : exec i s = immediateOp op rd rs1 imm s) : Completes i s rd (alu op (s.readReg rs1) imm) :=
  completesTo_of_commitReg h

/-! ## The ALU's results (R101, R106 to R108) -/

theorem alu_add_eq_ofInt (a b : Word) : alu .add a b = BitVec.ofInt 32 (a.toInt + b.toInt) := by
  rw [BitVec.ofInt_add, BitVec.ofInt_toInt, BitVec.ofInt_toInt, alu]

theorem alu_sll_eq_ofNat (a b : Word) : alu .sll a b = BitVec.ofNat 32 (a.toNat * 2 ^ shiftAmount b) := by
  apply BitVec.eq_of_toNat_eq
  rw [alu, BitVec.toNat_shiftLeft, Nat.shiftLeft_eq, BitVec.toNat_ofNat]

theorem alu_srl_eq_ofNat (a b : Word) : alu .srl a b = BitVec.ofNat 32 (a.toNat / 2 ^ shiftAmount b) := by
  apply BitVec.eq_of_toNat_eq
  have : a.toNat / 2 ^ shiftAmount b < 2 ^ 32 := (Nat.div_le_self ..).trans_lt a.isLt
  rw [alu, BitVec.toNat_ushiftRight, Nat.shiftRight_eq_div_pow, BitVec.toNat_ofNat, Nat.mod_eq_of_lt this]

theorem alu_sra_eq_ofInt (a b : Word) : alu .sra a b = BitVec.ofInt 32 (a.toInt / 2 ^ shiftAmount b) := by
  rw [alu, BitVec.sshiftRight, Int.shiftRight_eq_div_pow]; rfl

/-! ## The obligations -/

/-- Settles O17: sign extension keeps the immediate's value for the sum, and repeats its bit 11 for the bitwise operations. -/
theorem immediateArithmeticResult : Obligations.ImmediateArithmeticResult := by
  intro s rd rs1 imm
  refine ⟨?_, _, _, _, completes_of_immediateOp rfl, completes_of_immediateOp rfl, completes_of_immediateOp rfl, ?_⟩
  · rw [← immI_toInt, ← alu_add_eq_ofInt]
    exact completes_of_immediateOp rfl
  · intro k hk
    have himm : (immI imm).getLsbD k = imm.getLsbD (min k 11) := getLsbD_signExtend_min imm hk
    refine ⟨?_, ?_, ?_⟩
    · rw [alu, BitVec.getLsbD_and, himm]
    · rw [alu, BitVec.getLsbD_or, himm]
    · rw [alu, BitVec.getLsbD_xor, himm]

/-- Settles O19: the low five bits of the operand are `shamt`, whatever stands above them. -/
theorem immediateShiftResult : Obligations.ImmediateShiftResult := by
  intro s rd rs1 shamt
  refine ⟨?_, ?_, ?_⟩
  · rw [← shiftAmount_immShift 0b0000000#7 shamt, ← alu_sll_eq_ofNat]
    exact completes_of_immediateOp rfl
  · rw [← shiftAmount_immShift 0b0000000#7 shamt, ← alu_srl_eq_ofNat]
    exact completes_of_immediateOp rfl
  · rw [← shiftAmount_immShift 0b0100000#7 shamt, ← alu_sra_eq_ofInt]
    exact completes_of_immediateOp rfl

end Sys2Proof.Machine
end

section
/-!
PROOFS. The datapath (spec/40_datapath.md): its step keeps the invariant, and the register-register instructions that add, subtract,
combine, compare, multiply to the low word and divide unsigned commit the ALU's result, given as arithmetic or bit by bit.
-/

namespace Sys2Proof.Machine
open Sys2Proof.Claims

/-! ## The invariant along a step -/

/-- Settles O4: a step that answers next changes nothing but the run state and the notifications, or it commits an instruction, of
which only a store changes memory, at addresses its access check found to exist. -/
theorem stepKeepsInvariant : Obligations.StepKeepsInvariant := fun _ _ h hst => step_keeps_inv h hst

/-! ## What a register-register instruction commits (R95) -/

theorem completes_of_registerOp {i : Instr} {s : State} {op : AluOp} {rd rs1 rs2 : Reg}
    (h : exec i s = registerOp op rd rs1 rs2 s) : Completes i s rd (alu op (s.readReg rs1) (s.readReg rs2)) :=
  completesTo_of_commitReg h

/-! ## Sum, difference and product modulo 2^32 (R101, R102, R111) -/

theorem ofNat_toNat_word (a : Word) : BitVec.ofNat 32 a.toNat = a := by rw [BitVec.ofNat_toNat, BitVec.setWidth_eq]

theorem ofInt_sub_word (x y : Int) : BitVec.ofInt 32 (x - y) = BitVec.ofInt 32 x - BitVec.ofInt 32 y :=
  Int.cast_sub (R := Word) x y

theorem alu_add_eq_ofNat (a b : Word) : alu .add a b = BitVec.ofNat 32 (a.toNat + b.toNat) := by
  rw [alu, BitVec.ofNat_add, ofNat_toNat_word, ofNat_toNat_word]

theorem alu_sub_eq_ofInt_toNat (a b : Word) : alu .sub a b = BitVec.ofInt 32 (a.toNat - b.toNat : Int) := by
  rw [alu, ofInt_sub_word, BitVec.ofInt_natCast, BitVec.ofInt_natCast, ofNat_toNat_word, ofNat_toNat_word]

theorem alu_sub_eq_ofInt (a b : Word) : alu .sub a b = BitVec.ofInt 32 (a.toInt - b.toInt) := by
  rw [alu, ofInt_sub_word, BitVec.ofInt_toInt, BitVec.ofInt_toInt]

theorem alu_mul_eq_ofNat (a b : Word) : alu .mul a b = BitVec.ofNat 32 (a.toNat * b.toNat) := by
  rw [alu, mulLow, BitVec.ofNat_mul, ofNat_toNat_word, ofNat_toNat_word]

theorem alu_mul_eq_ofInt (a b : Word) : alu .mul a b = BitVec.ofInt 32 (a.toInt * b.toInt) := by
  rw [alu, mulLow, BitVec.ofInt_mul, BitVec.ofInt_toInt, BitVec.ofInt_toInt]

/-! ## Bit by bit (R103 to R105) -/

theorem alu_and_getLsbD (a b : Word) (k : Nat) : (alu .and a b).getLsbD k = (a.getLsbD k && b.getLsbD k) :=
  BitVec.getLsbD_and

theorem alu_or_getLsbD (a b : Word) (k : Nat) : (alu .or a b).getLsbD k = (a.getLsbD k || b.getLsbD k) :=
  BitVec.getLsbD_or

theorem alu_xor_getLsbD (a b : Word) (k : Nat) : (alu .xor a b).getLsbD k = (a.getLsbD k != b.getLsbD k) :=
  BitVec.getLsbD_xor

/-! ## Comparisons (R109, R110) -/

theorem boolWord_decide (p : Prop) [Decidable p] : boolWord (decide p) = if p then 1#32 else 0#32 := by
  simp only [boolWord, decide_eq_true_eq]

theorem alu_slt_eq_ite (a b : Word) : alu .slt a b = if a.toInt < b.toInt then 1#32 else 0#32 :=
  boolWord_decide (a.toInt < b.toInt)

theorem alu_sltu_eq_ite (a b : Word) : alu .sltu a b = if a.toNat < b.toNat then 1#32 else 0#32 :=
  boolWord_decide (a.toNat < b.toNat)

/-! ## Unsigned division (R116, R118): the divisor is the zero word exactly where its value is 0 -/

theorem alu_divu_toNat (a b : Word) :
    (alu .divu a b).toNat = if b.toNat = 0 then 2 ^ 32 - 1 else a.toNat / b.toNat := by
  rw [alu, divUnsigned, apply_ite BitVec.toNat, BitVec.toNat_udiv]
  exact if_congr BitVec.toNat_eq rfl rfl

theorem alu_remu_toNat (a b : Word) :
    (alu .remu a b).toNat = if b.toNat = 0 then a.toNat else a.toNat % b.toNat := by
  rw [alu, remUnsigned, apply_ite BitVec.toNat, BitVec.toNat_umod]
  exact if_congr BitVec.toNat_eq rfl rfl

theorem alu_divu_eq_ite (a b : Word) :
    alu .divu a b = if b.toNat = 0 then 0xFFFFFFFF#32 else BitVec.ofNat 32 (a.toNat / b.toNat) := by
  rw [← BitVec.toNat_udiv, ofNat_toNat_word]
  exact if_congr BitVec.toNat_eq rfl rfl

theorem alu_remu_eq_ite (a b : Word) :
    alu .remu a b = if b.toNat = 0 then a else BitVec.ofNat 32 (a.toNat % b.toNat) := by
  rw [← BitVec.toNat_umod, ofNat_toNat_word]
  exact if_congr BitVec.toNat_eq rfl rfl

/-! ## The obligations -/

/-- Settles O8: a word's signed and unsigned values agree modulo 2^32, so both readings give the same sum and difference. -/
theorem addSubResult : Obligations.AddSubResult := by
  refine ⟨fun a b => ⟨alu_add_eq_ofNat a b, alu_add_eq_ofInt a b, alu_sub_eq_ofInt_toNat a b, alu_sub_eq_ofInt a b⟩,
    fun s rd rs1 rs2 => ⟨?_, ?_⟩⟩
  · rw [← alu_add_eq_ofNat]; exact completes_of_registerOp rfl
  · rw [← alu_sub_eq_ofInt_toNat]; exact completes_of_registerOp rfl

/-- Settles O9: the values the three instructions write are the ALU's, whose bits are known. -/
theorem logicResult : Obligations.LogicResult := by
  refine ⟨fun a b k => ⟨alu_and_getLsbD a b k, alu_or_getLsbD a b k, alu_xor_getLsbD a b k⟩, fun s rd rs1 rs2 =>
    ⟨_, _, _, completes_of_registerOp rfl, completes_of_registerOp rfl, completes_of_registerOp rfl, fun k => ?_⟩⟩
  exact ⟨alu_and_getLsbD _ _ k, alu_or_getLsbD _ _ k, alu_xor_getLsbD _ _ k⟩

/-- Settles O11: the comparators of words compare their signed and their unsigned values. -/
theorem setLessThanResult : Obligations.SetLessThanResult := by
  refine ⟨fun a b => ⟨alu_slt_eq_ite a b, alu_sltu_eq_ite a b⟩, fun s rd rs1 rs2 => ⟨?_, ?_⟩⟩
  · rw [← alu_slt_eq_ite]; exact completes_of_registerOp rfl
  · rw [← alu_sltu_eq_ite]; exact completes_of_registerOp rfl

/-- Settles O12: as for the sum, both readings give the same low word. -/
theorem mulLowResult : Obligations.MulLowResult := by
  refine ⟨fun a b => ⟨alu_mul_eq_ofNat a b, alu_mul_eq_ofInt a b⟩, fun s rd rs1 rs2 => ?_⟩
  rw [← alu_mul_eq_ofNat]
  exact completes_of_registerOp rfl

/-- Settles O15: where the divisor is not 0, the word operations divide the unsigned values. -/
theorem unsignedDivisionResult : Obligations.UnsignedDivisionResult := by
  refine ⟨fun a b => ⟨alu_divu_toNat a b, alu_remu_toNat a b⟩, fun s rd rs1 rs2 => ⟨?_, ?_⟩⟩
  · rw [← alu_divu_eq_ite]; exact completes_of_registerOp rfl
  · rw [← alu_remu_eq_ite]; exact completes_of_registerOp rfl

end Sys2Proof.Machine
end

section
/-!
PROOFS. The halt sequence (spec/48_system.md, spec/60_exceptions.md section 4): the step that runs an ECALL, the step that halts, and
the steps of a halted machine.
-/

namespace Sys2Proof.Machine
open Sys2Proof.Claims

/-- The state an ECALL leaves (R200, R227). -/
def State.afterEcall (s : State) : State :=
  { s.emit (.ecallNotify s.pc s.regs) with run := .haltPending, pc := s.pcPlus4 }

/-- The state the halting transition leaves (R225, R228). -/
def State.afterHalt (s : State) : State := { s.emit .finished with run := .halted }

theorem exec_ecall (s : State) : exec .ecall s = .next s.afterEcall := rfl

theorem step_haltPending_afterHalt {s : State} (h : s.run = .haltPending) : step s = .next s.afterHalt :=
  step_haltPending h

/-- Every word of the SYSTEM opcode runs as ECALL (R201, decision D8). -/
theorem step_of_systemOpcode {s : State} (hr : s.run = .running) (hf : FetchAllowed s)
    (hop : opcodeOf (wordAtPc s) = 0b1110011#7) : step s = .next s.afterEcall :=
  (step_of_fetchWord_decode hr (fetchWord_of_fetchAllowed hf) (decodeWord_of_ecall hop)).trans (exec_ecall s)

/-- A halted machine stays as it is (R226). -/
theorem run_of_halted {s : State} (h : s.run = .halted) (n : Nat) : Sys2Proof.core.run n s = .next s := by
  induction n with
  | zero => rfl
  | succ n ih => rw [run_succ_of_next n (step_halted h), ih]

/-- The two notifications of a halt, in their order. -/
theorem State.trace_afterHalt_afterEcall (s : State) :
    s.afterEcall.afterHalt.trace = s.trace ++ [.ecallNotify s.pc s.regs, .finished] :=
  List.append_assoc ..

/-- Settles O37: the first step runs the ECALL, the second halts, and the `n` after them change nothing. -/
theorem haltSequence : Obligations.HaltSequence := by
  intro s hr hf hop
  refine ⟨s.afterEcall.afterHalt, rfl, rfl, rfl, rfl, rfl, s.trace_afterHalt_afterEcall, fun n => ?_⟩
  calc Sys2Proof.core.run (n + 2) s
      = Sys2Proof.core.run (n + 1) s.afterEcall := run_succ_of_next (n + 1) (step_of_systemOpcode hr hf hop)
    _ = Sys2Proof.core.run n s.afterEcall.afterHalt := run_succ_of_next n (step_haltPending_afterHalt rfl)
    _ = .next s.afterEcall.afterHalt := run_of_halted rfl n

end Sys2Proof.Machine
end

section
/-!
PROOFS. Faults and the ends of a step (spec/60_exceptions.md): where the fetch, a load and a store fault and with which fault, that a
faulting step commits nothing and repeats for ever, and which result a step ends with.
-/

namespace Sys2Proof.Machine
open Sys2Proof.Claims

/-! ## The fault of an access that is not allowed (R44 to R47, R212) -/

theorem rangeExists_of_not_bytesExist {s : State} {a n : Nat} (h : ¬ BytesExist s a n) : rangeExists s.cfg a n = false :=
  Bool.eq_false_iff.mpr fun hr => h fun k hk => addressExists_of_range hr (Nat.le_add_right a k) (Nat.add_lt_add_left hk a)

theorem accessFault_of_missing {s : State} {a : Word} {w : Width} (kind : AccessKind) (h : a.toNat % w.bytes = 0)
    (hb : ¬ BytesExist s a.toNat w.bytes) : accessFault s kind a w = some (.memoryAccess kind .outOfRange a w s.pc) :=
  accessFault_outOfRange h (rangeExists_of_not_bytesExist hb)

/-- Settles O24: every load is `loadOp` at its width, and the check of the access gives its fault. -/
theorem loadFaults : Obligations.LoadFaults := by
  rintro s rd rs1 imm _ rfl
  refine ⟨fun h => ?_, fun h => ?_, fun hb => ?_, fun h hb => ?_, fun h hb => ?_⟩
  · exact ⟨loadOp_of_fault (accessFault_misaligned h), loadOp_of_fault (accessFault_misaligned h)⟩
  · exact loadOp_of_fault (accessFault_misaligned h)
  · have hf := accessFault_of_missing .load (aligned_byte _) hb
    exact ⟨loadOp_of_fault hf, loadOp_of_fault hf⟩
  · exact ⟨loadOp_of_fault (accessFault_of_missing .load h hb), loadOp_of_fault (accessFault_of_missing .load h hb)⟩
  · exact loadOp_of_fault (accessFault_of_missing .load h hb)

/-- Settles O25: every store is `storeOp` at its width, and the check of the access gives its fault. -/
theorem storeFaults : Obligations.StoreFaults := by
  rintro s rs2 rs1 imm _ rfl
  refine ⟨fun h => ?_, fun h => ?_, fun hb => ?_, fun h hb => ?_, fun h hb => ?_⟩
  · exact storeOp_of_fault (accessFault_misaligned h)
  · exact storeOp_of_fault (accessFault_misaligned h)
  · exact storeOp_of_fault (accessFault_of_missing .store (aligned_byte _) hb)
  · exact storeOp_of_fault (accessFault_of_missing .store h hb)
  · exact storeOp_of_fault (accessFault_of_missing .store h hb)

/-- Settles O39: the check of the fetch comes before everything else a step in Running does. -/
theorem fetchFaults : Obligations.FetchFaults := by
  intro s hr
  refine ⟨step_of_misaligned hr, fun h hb => ?_⟩
  exact step_running_error hr (fetchInstr_of_fault (accessFault_of_missing .fetch h hb))

/-! ## A faulting step (R214, R216) -/

/-- Only a step in Running faults. -/
theorem run_of_step_fault {s : State} {f : Fault} (h : step s = .fault f) : s.run = .running := by
  cases hr : s.run with
  | running => rfl
  | haltPending => rw [step_haltPending hr] at h; cases h
  | halted => rw [step_halted hr] at h; cases h

theorem step_of_clock_fault {s : State} {f : Fault} (h : (clock s).1 = .fault f) : step s = .fault f := by
  cases hs : step s with
  | next t => rw [clock_of_next hs] at h; dsimp only at h; split at h <;> cases h
  | fault g => rw [clock_of_fault hs] at h; cases h; rfl
  | refused r => exact absurd hs (step_not_refused s r)

theorem clocked_of_clock_snd {s : State} (h : (clock s).2 = s) (n : Nat) : clocked n s = s := by
  induction n with
  | zero => rfl
  | succ n ih => rw [clocked, h, ih]

theorem emitted_of_append {s t : State} {new : List Notification} (h : t.trace = s.trace ++ new) : emitted s t = new := by
  rw [emitted, h, List.drop_left]

theorem emitted_of_trace_eq {s t : State} (h : t.trace = s.trace) : emitted s t = [] :=
  emitted_of_append (h.trans (List.append_nil _).symm)

/-- Settles O41: the state after a faulting step is the state before it. -/
theorem faultCommitsNothing : Obligations.FaultCommitsNothing := by
  intro s f h
  rw [clock_snd_of_fault h]
  exact ⟨rfl, fun _ => rfl, fun _ => rfl, rfl, emitted_of_trace_eq rfl⟩

/-- Settles O42: the state stays, by induction on the steps, so the same step faults again. -/
theorem faultRepeatsForEver : Obligations.FaultRepeatsForEver := by
  intro s f h
  have hs := step_of_clock_fault h
  refine ⟨run_of_step_fault hs, fun n => ?_⟩
  have hstays := clocked_of_clock_snd (clock_snd_of_fault h) n
  exact ⟨hstays, by rw [hstays, clock_of_fault hs]⟩

/-- Settles O43: by the outcome of the step; a step never refuses, and a halted state does not fault. -/
theorem everyStepEnds : Obligations.EveryStepEnds := by
  intro s
  cases hs : step s with
  | next t => by_cases hr : s.run = .halted <;> simp [clock_of_next hs, hr]
  | fault f => simp [clock_of_fault hs, run_of_step_fault hs]
  | refused r => exact absurd hs (step_not_refused s r)

end Sys2Proof.Machine
end

section
/-!
PROOFS. What a cycle leaves unchanged and what it emits (spec/10_state.md section 1, spec/60_exceptions.md rules R224, R228, R229): the
frame of every commit, the one instruction that leaves Running, and the one transition that emits Finished.
-/

namespace Sys2Proof.Machine
open Sys2Proof.Claims

/-! ## The frame of a commit -/

section
variable {i : Instr} {s t : State}

theorem Commit.readReg_of_not_destination (hc : Commit i s t) {r : Reg} (h : destination i ≠ some r) :
    t.readReg r = s.readReg r := by
  cases hc with
  | reg rd v target hd =>
    have hne : ¬ (r ≠ 0 ∧ r = rd) := fun hr => h (hr.2 ▸ hd)
    exact (s.readReg_writeReg rd r v).trans (if_neg hne)
  | pc | store | ecall => rfl

theorem Commit.read_outside_store (hc : Commit i s t) {b : Nat}
    (h : ∀ a w, dataAccess s i = some (.store, a, w) → b < a.toNat ∨ a.toNat + w.bytes ≤ b) : t.mem.read b = s.mem.read b := by
  cases hc with
  | store a w v ha => exact Memory.read_store_outside _ _ _ (h a w ha)
  | reg | pc | ecall => rfl

theorem Commit.pc_of_not_transfersControl (hc : Commit i s t) (h : transfersControl i = false) : t.pc = s.pcPlus4 := by
  cases hc with
  | reg rd v target _ hnext => exact hnext h
  | pc target ht => rw [ht] at h; cases h
  | store | ecall => rfl

theorem Commit.run_trace_of_ne_ecall (hc : Commit i s t) (h : i ≠ .ecall) : t.run = s.run ∧ t.trace = s.trace := by
  cases hc with
  | reg | pc | store => exact ⟨rfl, rfl⟩
  | ecall he => exact absurd he h

theorem Commit.cfg_eq (hc : Commit i s t) : t.cfg = s.cfg := by cases hc <;> rfl

end

/-- Settles O45: each part of the frame holds of every commit. -/
theorem instructionFrame : Obligations.InstructionFrame := by
  intro i s t h
  have hc := exec_next h
  exact ⟨fun _ => hc.readReg_of_not_destination, fun _ => hc.read_outside_store, hc.pc_of_not_transfersControl,
    hc.run_trace_of_ne_ecall, hc.cfg_eq⟩

/-! ## Leaving Running (R224) -/

/-- A word of another opcode does not decode to ECALL (R75, R78). -/
theorem ne_ecall_of_fetchInstr {s : State} {i : Instr} (h : fetchInstr s = .ok i) (hop : opcodeOf (wordAtPc s) ≠ 0b1110011#7) :
    i ≠ .ecall := by
  rintro rfl
  obtain ⟨-, hd⟩ := fetchInstr_ok_iff.mp h
  rw [← wordAtPc_eq_load] at hd
  exact hop (decodeWord_ecall_iff.mp hd)

/-- Settles O33: a SYSTEM word runs as ECALL, and the frame of every other instruction keeps the run state. -/
theorem onlyEcallLeavesRunning : Obligations.OnlyEcallLeavesRunning := by
  intro s hr
  refine ⟨fun hf hop => ⟨_, step_of_systemOpcode hr hf hop, rfl, rfl⟩, fun t hstep hop => ?_⟩
  rw [step_running hr] at hstep
  cases hfetch : fetchInstr s with
  | error f => rw [hfetch] at hstep; cases hstep
  | ok i =>
    rw [hfetch] at hstep
    exact ((exec_next hstep).run_trace_of_ne_ecall (ne_ecall_of_fetchInstr hfetch hop)).1.trans hr

/-! ## Who emits Finished (R228) -/

theorem exec_emits_no_finished {i : Instr} {s t : State} (h : exec i s = .next t) : .finished ∉ emitted s t := by
  by_cases hi : i = .ecall
  · subst hi
    cases h
    rw [emitted_of_append (new := [.ecallNotify s.pc s.regs]) rfl]
    simp
  · rw [emitted_of_trace_eq ((exec_next h).run_trace_of_ne_ecall hi).2]
    exact List.not_mem_nil

theorem step_emits_no_finished {s t : State} (hr : s.run ≠ .haltPending) (h : step s = .next t) : .finished ∉ emitted s t := by
  rcases step_next h with ⟨-, rfl⟩ | ⟨hp, -⟩ | ⟨-, i, -, hexec⟩
  · simp [emitted_of_trace_eq]
  · exact absurd hp hr
  · exact exec_emits_no_finished hexec

/-- Settles O35: the halting transition emits Finished, a step that commits otherwise does not, and nothing else emits at all. -/
theorem finishedOncePerHalt : Obligations.FinishedOncePerHalt := by
  intro s
  refine ⟨fun hr => ?_, fun hr => ?_, emitted_of_trace_eq rfl, fun p => emitted_of_trace_eq rfl⟩
  · rw [clock_of_next (step_haltPending_afterHalt hr)]
    exact ⟨emitted_of_append rfl, rfl⟩
  · rcases clock_snd_cases s with hnext | hsame
    · exact step_emits_no_finished hr hnext
    · simp [hsame, emitted_of_trace_eq]

end Sys2Proof.Machine
end

section
/-!
PROOFS. Notifications are outputs, not state (spec/00_scope.md section 7, log entry 5): a step commutes with putting older
notifications in front of those a state holds. Two states that differ in their past are both such extensions of the state without one.
-/

namespace Sys2Proof.Machine

/-- The state with notifications older than all it holds. -/
def State.after (past : List Notification) (s : State) : State := { s with trace := past ++ s.trace }

/-- The outcome with its next state, if any, put after older notifications. -/
def outcomeAfter (past : List Notification) : Host.Outcome State Fault Refusal → Host.Outcome State Fault Refusal
  | .next t => .next (t.after past)
  | .fault f => .fault f
  | .refused r => .refused r

theorem outcomeAfter_eq_next {past : List Notification} {o : Host.Outcome State Fault Refusal} {t : State}
    (h : outcomeAfter past o = .next t) : ∃ u, o = .next u ∧ t = u.after past := by
  cases o with
  | next u => cases h; exact ⟨u, rfl, rfl⟩
  | fault f => cases h
  | refused r => cases h

theorem outcomeAfter_eq_fault {past : List Notification} {o : Host.Outcome State Fault Refusal} {f : Fault}
    (h : outcomeAfter past o = .fault f) : o = .fault f := by
  cases o with
  | next u => cases h
  | fault g => exact h
  | refused r => cases h

/-! ## A step commutes with older notifications -/

theorem State.after_emit (past : List Notification) (s : State) (n : Notification) :
    (s.after past).emit n = (s.emit n).after past := by
  simp only [State.after, State.emit, List.append_assoc]

theorem accessFault_after (past : List Notification) (s : State) (kind : AccessKind) (a : Word) (w : Width) :
    accessFault (s.after past) kind a w = accessFault s kind a w := rfl

theorem loadOp_after (past : List Notification) {w : Width} (extend : BitVec w.bits → Word) (rd rs1 : Reg) (imm : Word) (s : State) :
    loadOp w extend rd rs1 imm (s.after past) = outcomeAfter past (loadOp w extend rd rs1 imm s) := by
  cases hf : accessFault s .load (s.effectiveAddress rs1 imm) w with
  | some f => rw [loadOp_of_fault hf, loadOp_of_fault ((accessFault_after past ..).trans hf)]; rfl
  | none => rw [loadOp_of_none hf, loadOp_of_none ((accessFault_after past ..).trans hf)]; rfl

theorem storeOp_after (past : List Notification) (w : Width) (rs2 rs1 : Reg) (imm : Word) (s : State) :
    storeOp w rs2 rs1 imm (s.after past) = outcomeAfter past (storeOp w rs2 rs1 imm s) := by
  cases hf : accessFault s .store (s.effectiveAddress rs1 imm) w with
  | some f => rw [storeOp_of_fault hf, storeOp_of_fault ((accessFault_after past ..).trans hf)]; rfl
  | none => rw [storeOp_of_none hf, storeOp_of_none ((accessFault_after past ..).trans hf)]; rfl

theorem exec_ecall_after (past : List Notification) (s : State) :
    exec .ecall (s.after past) = outcomeAfter past (exec .ecall s) := by
  rw [exec_ecall, State.afterEcall, State.after_emit]; rfl

/-- No meaning reads the notifications. -/
theorem exec_after (past : List Notification) (i : Instr) (s : State) :
    exec i (s.after past) = outcomeAfter past (exec i s) := by
  cases i with
  | lb | lh | lw | lbu | lhu => exact loadOp_after ..
  | sb | sh | sw => exact storeOp_after ..
  | ecall => exact exec_ecall_after past s
  | _ => rfl

theorem fetchInstr_after (past : List Notification) (s : State) : fetchInstr (s.after past) = fetchInstr s := rfl

theorem step_after (past : List Notification) (s : State) : step (s.after past) = outcomeAfter past (step s) := by
  cases hr : s.run with
  | halted => rw [step_halted hr, step_halted (s := s.after past) hr]; rfl
  | haltPending =>
    rw [step_haltPending hr, step_haltPending (s := s.after past) hr, State.after_emit]; rfl
  | running =>
    rw [step_running hr, step_running (s := s.after past) hr, fetchInstr_after]
    cases fetchInstr s with
    | error f => rfl
    | ok i => exact exec_after past i s

/-! ## Two pasts of one state -/

/-- The state with nothing emitted yet. -/
def State.untraced (s : State) : State := { s with trace := [] }

theorem State.after_untraced (past : List Notification) (s : State) : s.untraced.after past = { s with trace := past } := by
  rw [State.after, State.untraced, List.append_nil]

theorem State.after_trace_untraced (s : State) : s.untraced.after s.trace = s := s.after_untraced s.trace

/-- Settles O47: both steps are the step of the state with no past, put after their own notifications. -/
theorem traceNeverFeedsBack : Obligations.TraceNeverFeedsBack := by
  intro s past
  have hown : step s = outcomeAfter s.trace (step s.untraced) := by rw [← step_after, s.after_trace_untraced]
  rw [← s.after_untraced past, step_after]
  refine ⟨fun t h => ?_, fun f h => ?_⟩
  · obtain ⟨u, hu, rfl⟩ := outcomeAfter_eq_next (hown.symm.trans h)
    rw [hu, emitted_of_append (new := u.trace) rfl]
    rfl
  · rw [outcomeAfter_eq_fault (hown.symm.trans h)]
    rfl

end Sys2Proof.Machine
end

section
/-!
PROOFS. Reset, Capture and Restore (spec/70_reset_and_hazards.md R240, R246 to R248). A restored state is the captured state with
another past, and calls of Step commute with older notifications: both runs are the run of the state without a past, each put after
its own notifications.
-/

namespace Sys2Proof.Machine
open Sys2Proof.Claims

/-! ## Reset (R240) -/

theorem RegFile.read_succ (f : RegFile) (i : Fin 31) : f.read i.succ = f[i] := rfl

theorem State.readReg_hostReset_succ (s : State) (i : Fin 31) : s.hostReset.readReg i.succ = s.cfg.regInit[i] :=
  RegFile.read_succ s.cfg.regInit i

/-- Settles O1: every field but the notifications is that of the configuration's reset state. -/
theorem resetGivesConfiguredValues : Obligations.ResetGivesConfiguredValues := fun s =>
  ⟨rfl, s.hostReset.readReg_zero, s.readReg_hostReset_succ, fun _ => rfl, rfl, rfl, rfl⟩

/-! ## Calls of Step commute with older notifications -/

theorem clock_after (past : List Notification) (s : State) : clock (s.after past) = ((clock s).1, (clock s).2.after past) := by
  rw [clock, clock, step_after]
  cases step s with
  | next t => rfl
  | fault f => rfl
  | refused r => rfl

theorem clocked_after (past : List Notification) (n : Nat) (s : State) : clocked n (s.after past) = (clocked n s).after past := by
  induction n generalizing s with
  | zero => rfl
  | succ n ih => rw [clocked, clocked, clock_after, ih]

theorem agreeButTrace_after (past past' : List Notification) (s : State) : AgreeButTrace (s.after past) (s.after past') :=
  ⟨rfl, rfl, rfl, rfl, rfl⟩

/-! ## Restore (R247, R248) -/

theorem State.restore_capture_self (s : State) : s.restore s.capture = s := rfl

/-- Under one configuration, what a restore leaves of the state before it is the notifications. -/
theorem State.restore_capture {s u : State} (h : u.cfg = s.cfg) : u.restore s.capture = { s with trace := u.trace } := by
  rw [State.restore, h, State.capture]

/-- Settles O49: both runs are that of the captured state without a past, put after the notifications of `s` and of `u`. -/
theorem restoreRewinds : Obligations.RestoreRewinds := by
  intro s u hcfg
  have hrestored : u.restore s.capture = s.untraced.after u.trace := by
    rw [State.restore_capture hcfg, s.after_untraced]
  have hcaptured (n : Nat) : clocked n s = (clocked n s.untraced).after s.trace := by
    rw [← clocked_after, s.after_trace_untraced]
  refine ⟨s.restore_capture_self, ⟨rfl, rfl, rfl, rfl, hcfg⟩, rfl, fun n => ?_⟩
  rw [hrestored, clocked_after, hcaptured]
  refine ⟨agreeButTrace_after .., ?_, ?_⟩
  · rw [emitted_of_append (new := (clocked n s.untraced).trace) rfl]
    rfl
  · rw [clock_after, clock_after]

end Sys2Proof.Machine
end

section
/-!
PROOFS. Decoding and encoding are inverse to each other (spec/30_encoding.md): the decoder reads every well-formed instruction back from
its word, and what it reads from a word encodes to that word, ECALL apart, whose operand bits the decoder does not keep.
-/

namespace Sys2Proof

/-! ## Decoding an encoded instruction -/

/-- The fields of the encoding select the instruction in its class, and its operands are read back from them. -/
theorem decodeWord_encode {i : Instr} (h : i.wf = true) : decodeWord (encode i) = .ok i := by
  cases i with
  | add | sub | sll | slt | sltu | xor | srl | sra | or | and | mul | mulh | mulhsu | mulhu | div | divu | rem | remu =>
    simp [encode, decodeWord_of_opClass, decodeOp]
  | addi | slti | sltiu | xori | ori | andi | slli | srli | srai => simp [encode, decodeWord_of_opImmClass, decodeOpImm]
  | lb | lh | lw | lbu | lhu => simp [encode, decodeWord_of_loadClass, decodeLoad]
  | sb | sh | sw => simp [encode, decodeWord_of_storeClass, decodeStore]
  | beq rs1 rs2 offset | bne rs1 rs2 offset | blt rs1 rs2 offset | bge rs1 rs2 offset | bltu rs1 rs2 offset
  | bgeu rs1 rs2 offset => simp [encode, decodeWord_of_branchClass, decodeBranch, immBOf_encodeB _ _ _ _ offset h]
  | jal rd offset => simp [encode, decodeWord_of_jal, immJOf_encodeJ _ _ offset h]
  | jalr => simp [encode, decodeWord_of_jalrClass, decodeJalr]
  | lui => simp [encode, decodeWord_of_lui]
  | auipc => simp [encode, decodeWord_of_auipc]
  | ecall => exact decodeWord_of_ecall rfl

/-- Settles O50, class by class: each format's fields and operands are read back from its encoding. -/
theorem decodeInvertsEncode : Obligations.DecodeInvertsEncode := fun _ => decodeWord_encode

theorem decodeWord_eq_of_encode_eq {w : Word} {i : Instr} (hwf : i.wf = true) (h : encode i = w) : decodeWord w = .ok i :=
  h ▸ decodeWord_encode hwf

/-- Settles O55: each word is the encoding of its instruction. -/
theorem specWordsDecode : Obligations.SpecWordsDecode := by
  refine ⟨?_, ?_, ?_, ?_, ?_, ?_, ?_, ?_, ?_, ?_, ?_, ?_⟩ <;> exact decodeWord_eq_of_encode_eq (by decide) (by decide)

/-! ## Encoding a decoded word -/

section
variable {w : Word} {op f7 : BitVec 7} {f3 : BitVec 3}

theorem encodeR_of_fields (hop : opcodeOf w = op) (h7 : funct7Of w = f7) (h3 : funct3Of w = f3) :
    encodeR f7 (rs2Of w) (rs1Of w) f3 (rdOf w) op = w := by
  subst hop h7 h3; exact encodeR_fields w

theorem encodeI_of_fields (hop : opcodeOf w = op) (h3 : funct3Of w = f3) :
    encodeI (immIOf w) (rs1Of w) f3 (rdOf w) op = w := by
  subst hop h3; exact encodeI_fields w

theorem encodeShift_of_fields (hop : opcodeOf w = op) (h7 : funct7Of w = f7) (h3 : funct3Of w = f3) :
    encodeShift f7 (shamtOf w) (rs1Of w) f3 (rdOf w) op = w := by
  subst hop h7 h3; exact encodeShift_fields w

theorem encodeS_of_fields (hop : opcodeOf w = op) (h3 : funct3Of w = f3) :
    encodeS (immSOf w) (rs2Of w) (rs1Of w) f3 op = w := by
  subst hop h3; exact encodeS_fields w

theorem encodeB_of_fields (hop : opcodeOf w = op) (h3 : funct3Of w = f3) :
    encodeB (immBOf w) (rs2Of w) (rs1Of w) f3 op = w := by
  subst hop h3; exact encodeB_fields w

theorem encodeU_of_fields (hop : opcodeOf w = op) : encodeU (immUOf w) (rdOf w) op = w := by
  subst hop; exact encodeU_fields w

theorem encodeJ_of_fields (hop : opcodeOf w = op) : encodeJ (immJOf w) (rdOf w) op = w := by
  subst hop; exact encodeJ_fields w

end

/-- Settles O51: an instruction is made of its word's fields, and a word is the encoding of its own fields. -/
theorem encodeInvertsDecode : Obligations.EncodeInvertsDecode := by
  intro w i h
  apply decodeWord_ok_cases (P := fun i => i.wf = true ∧ (i ≠ .ecall → encode i = w)) h
  case add | sub | sll | slt | sltu | xor | srl | sra | or | and | mul | mulh | mulhsu | mulhu | div | divu | rem | remu =>
    exact fun hop h7 h3 => ⟨rfl, fun _ => encodeR_of_fields hop h7 h3⟩
  case slli | srli | srai => exact fun hop h7 h3 => ⟨rfl, fun _ => encodeShift_of_fields hop h7 h3⟩
  case addi | slti | sltiu | xori | ori | andi | lb | lh | lw | lbu | lhu | jalr =>
    exact fun hop h3 => ⟨rfl, fun _ => encodeI_of_fields hop h3⟩
  case sb | sh | sw => exact fun hop h3 => ⟨rfl, fun _ => encodeS_of_fields hop h3⟩
  case beq | bne | blt | bge | bltu | bgeu =>
    exact fun hop h3 => ⟨evenOffset_immBOf w, fun _ => encodeB_of_fields hop h3⟩
  case jal => exact fun hop => ⟨evenOffset_immJOf w, fun _ => encodeJ_of_fields hop⟩
  case lui | auipc => exact fun hop => ⟨rfl, fun _ => encodeU_of_fields hop⟩
  case ecall => exact fun _ => ⟨rfl, fun hne => absurd rfl hne⟩

end Sys2Proof
end

section
/-!
PROOFS. The step is the spec's datapath (spec/40_datapath.md rule R90): on a word that decodes both run the same instruction, and a word
the decoder rejects is one Control has no bundle for.
-/

namespace Sys2Proof.Machine

/-- Control signals an illegal instruction exactly where the decoder rejects the word (R95, R76, R77). -/
theorem controlSignals_of_error {w : Word} {e : DecodeError} (h : decodeWord w = .error e) : controlSignals w = none := by
  rcases decodeWord_error h with
    ⟨hop, hload⟩ | ⟨hop, hopImm⟩ | ⟨hop, hstore⟩ | ⟨hop, h0, h1, h32⟩ | ⟨hop, hbranch⟩ | ⟨hop, hjalr⟩ | hunknown
  · simp [controlSignals, classOf, hop, memOpOfLoad, hload]
  · rcases hopImm with ⟨h3, h0⟩ | ⟨h3, h0, h32⟩
    · simp [controlSignals, classOf, hop, aluOpOfOpImm, h3, h0]
    · simp [controlSignals, classOf, hop, aluOpOfOpImm, h3, h0, h32]
  · simp [controlSignals, classOf, hop, memOpOfStore, hstore]
  · by_cases h7 : funct7Of w = 0b0100000#7
    · simp [controlSignals, classOf, hop, aluOpOfOp, h7, h32 h7]
    · simp [controlSignals, classOf, hop, aluOpOfOp, h0, h1, h7]
  · simp [controlSignals, classOf, hop, comparisonOfBranch, hbranch]
  · simp [controlSignals, classOf, hop, hjalr]
  · simp [controlSignals, classOf, hunknown]

theorem evaluate_of_error {w : Word} {e : DecodeError} (s : State) (h : decodeWord w = .error e) :
    evaluate s w = .fault (.illegalInstruction w s.pc) := by
  rw [evaluate, controlSignals_of_error h]; rfl

/-- After its fetch a cycle in Running is the datapath's on the fetched word. -/
theorem step_of_fetchWord {s : State} {w : Word} (hr : s.run = .running) (hf : fetchWord s = .ok w) : step s = evaluate s w := by
  cases hd : decodeWord w with
  | ok i => rw [step_of_fetchWord_decode hr hf hd, evaluate_eq_exec s hd]
  | error e => rw [step_of_fetchWord_illegal hr hf hd, evaluate_of_error s hd]

theorem step_of_fetchWord_error {s : State} {f : Fault} (hr : s.run = .running) (hf : fetchWord s = .error f) :
    step s = .fault f :=
  step_running_error hr (by rw [fetchInstr, hf])

/-- Settles O48, by run state: the halting cycles are written alike, and in Running both fetch and then evaluate the word. -/
theorem stepEqualsDatapath : Obligations.StepEqualsDatapath := by
  intro s
  unfold datapathStep
  cases hr : s.run with
  | halted => exact step_halted hr
  | haltPending => exact step_haltPending hr
  | running =>
    cases hf : fetchWord s with
    | error f => exact step_of_fetchWord_error hr hf
    | ok w => exact step_of_fetchWord hr hf

end Sys2Proof.Machine
end

section
/-!
PROOFS. The register ports over a sequence of writes (spec/10_state.md section 1, rules R11 and R12).
-/

namespace Sys2Proof.Machine

/-- The state after register writes, in the order of the list. -/
def State.writeRegs (s : State) (ws : List (Reg × Word)) : State := ws.foldl (fun u w => u.writeReg w.1 w.2) s

theorem State.writeRegs_append_singleton (s : State) (ws : List (Reg × Word)) (w : Reg × Word) :
    s.writeRegs (ws ++ [w]) = (s.writeRegs ws).writeReg w.1 w.2 := by
  simp only [State.writeRegs, List.foldl_append, List.foldl_cons, List.foldl_nil]

/-- The value of the last write to the register, else the given one. -/
def lastWrite (ws : List (Reg × Word)) (r : Reg) (v : Word) : Word :=
  match ws.reverse.find? (fun w => decide (w.1 = r)) with
  | some w => w.2
  | none => v

theorem lastWrite_append_singleton (ws : List (Reg × Word)) (w : Reg × Word) (r : Reg) (v : Word) :
    lastWrite (ws ++ [w]) r v = if r = w.1 then w.2 else lastWrite ws r v := by
  rw [lastWrite, List.reverse_append, List.reverse_singleton, List.singleton_append]
  by_cases h : r = w.1
  · rw [List.find?_cons_of_pos (by simp [h]), if_pos h]
  · rw [List.find?_cons_of_neg (by simpa using Ne.symm h), if_neg h, lastWrite]

/-- Any register but 0 reads its last write, by induction on the writes from the last one back. -/
theorem State.readReg_writeRegs (s : State) (ws : List (Reg × Word)) {r : Reg} (hr : r ≠ 0) :
    (s.writeRegs ws).readReg r = lastWrite ws r (s.readReg r) := by
  induction ws using List.reverseRecOn with
  | nil => rfl
  | append_singleton ws w ih =>
    simp only [State.writeRegs_append_singleton, State.readReg_writeReg, lastWrite_append_singleton, ih, hr, ne_eq,
      not_false_eq_true, true_and]

/-- Settles O7: register 0 has no storage, and the writes to any other are found from the last one back. -/
theorem registersReadTheLastWrite : Obligations.RegistersReadTheLastWrite := by
  intro s ws r
  by_cases hr : r = 0
  · rw [hr, if_pos rfl]
    exact State.readReg_zero _
  · rw [if_neg hr]
    exact s.readReg_writeRegs ws hr

end Sys2Proof.Machine
end

section
/-!
PROOFS. The register-register instructions that shift, multiply to the high word and divide signed (spec/41_op_register.md,
spec/42_muldiv.md): the ALU's result as arithmetic on the operands' values.
-/

namespace Sys2Proof.Machine
open Sys2Proof.Claims

/-! ## Shifts (R106 to R108) -/

/-- Settles O10: the ALU's shifts are by `shiftAmount`, which is the operand's value modulo 32. -/
theorem shiftResult : Obligations.ShiftResult := by
  intro s rd rs1 rs2
  rw [← shiftAmount_eq]
  refine ⟨?_, ?_, ?_⟩
  · rw [← alu_sll_eq_ofNat]; exact completes_of_registerOp rfl
  · rw [← alu_srl_eq_ofNat]; exact completes_of_registerOp rfl
  · rw [← alu_sra_eq_ofInt]; exact completes_of_registerOp rfl

/-! ## High words of products (R112 to R114) -/

/-- Bits 63..32 of an integer modulo 2^64 are its floor division by 2^32. -/
theorem extractLsb'_high_ofInt (p : Int) : (BitVec.ofInt 64 p).extractLsb' 32 32 = BitVec.ofInt 32 (p / 2 ^ 32) := by
  apply BitVec.eq_of_toNat_eq
  rw [toNat_extractLsb'_eq, BitVec.toNat_ofInt, BitVec.toNat_ofInt]
  omega

theorem signExtend_word_eq_ofInt (a : Word) : a.signExtend 64 = BitVec.ofInt 64 a.toInt := rfl

theorem setWidth_word_eq_ofInt (a : Word) : a.setWidth 64 = BitVec.ofInt 64 (a.toNat : Int) := by
  rw [BitVec.ofInt_natCast, BitVec.ofNat_toNat]

theorem alu_mulh_eq_ofInt (a b : Word) : alu .mulh a b = BitVec.ofInt 32 (a.toInt * b.toInt / 2 ^ 32) := by
  rw [alu, mulHighSigned, signExtend_word_eq_ofInt, signExtend_word_eq_ofInt, ← BitVec.ofInt_mul, extractLsb'_high_ofInt]

theorem alu_mulhu_eq_ofNat (a b : Word) : alu .mulhu a b = BitVec.ofNat 32 (a.toNat * b.toNat / 2 ^ 32) := by
  rw [alu, mulHighUnsigned, setWidth_word_eq_ofInt, setWidth_word_eq_ofInt, ← BitVec.ofInt_mul, extractLsb'_high_ofInt,
    ← BitVec.ofInt_natCast]
  push_cast
  rfl

theorem alu_mulhsu_eq_ofInt (a b : Word) : alu .mulhsu a b = BitVec.ofInt 32 (a.toInt * (b.toNat : Int) / 2 ^ 32) := by
  rw [alu, mulHighSignedUnsigned, signExtend_word_eq_ofInt, setWidth_word_eq_ofInt, ← BitVec.ofInt_mul,
    extractLsb'_high_ofInt]

/-- Settles O13: each operand is extended to 64 bits by its value, and the product's high word is the exact product's. -/
theorem mulHighResult : Obligations.MulHighResult := by
  intro s rd rs1 rs2
  refine ⟨?_, ?_, ?_⟩
  · rw [← alu_mulh_eq_ofInt]; exact completes_of_registerOp rfl
  · rw [← alu_mulhu_eq_ofNat]; exact completes_of_registerOp rfl
  · rw [← alu_mulhsu_eq_ofInt]; exact completes_of_registerOp rfl

/-! ## Signed division (R115, R117) -/

theorem sdiv_eq_ofInt (a b : Word) : a.sdiv b = BitVec.ofInt 32 (a.toInt.tdiv b.toInt) := by
  apply BitVec.eq_of_toInt_eq
  rw [BitVec.toInt_sdiv, BitVec.toInt_ofInt]

theorem srem_eq_ofInt (a b : Word) : a.srem b = BitVec.ofInt 32 (a.toInt - b.toInt * a.toInt.tdiv b.toInt) := by
  rw [← Int.tmod_def, ← BitVec.toInt_srem, BitVec.ofInt_toInt]

/-- The zero divisor and the overflow are told by the operands' signed values. -/
theorem eq_zero_iff_toInt (b : Word) : b = 0#32 ↔ b.toInt = 0 := BitVec.toInt_inj.symm

theorem overflow_iff_toInt (a b : Word) : (a = intMin ∧ b = allOnes) ↔ (a.toInt = -2 ^ 31 ∧ b.toInt = -1) :=
  and_congr BitVec.toInt_inj.symm BitVec.toInt_inj.symm

theorem alu_div_eq_ite (a b : Word) : alu .div a b =
    if b.toInt = 0 then 0xFFFFFFFF#32
    else if a.toInt = -2 ^ 31 ∧ b.toInt = -1 then 0x80000000#32
    else BitVec.ofInt 32 (a.toInt.tdiv b.toInt) := by
  rw [← sdiv_eq_ofInt]
  exact if_congr (eq_zero_iff_toInt b) rfl (if_congr (overflow_iff_toInt a b) rfl rfl)

theorem alu_rem_eq_ite (a b : Word) : alu .rem a b =
    if b.toInt = 0 then a
    else if a.toInt = -2 ^ 31 ∧ b.toInt = -1 then 0x00000000#32
    else BitVec.ofInt 32 (a.toInt - b.toInt * a.toInt.tdiv b.toInt) := by
  rw [← srem_eq_ofInt]
  exact if_congr (eq_zero_iff_toInt b) rfl (if_congr (overflow_iff_toInt a b) rfl rfl)

/-- Settles O14: the special cases are told by the operands' values, and the word operations round the exact quotient toward zero. -/
theorem signedDivisionResult : Obligations.SignedDivisionResult := by
  intro s rd rs1 rs2
  refine ⟨?_, ?_⟩
  · rw [← alu_div_eq_ite]; exact completes_of_registerOp rfl
  · rw [← alu_rem_eq_ite]; exact completes_of_registerOp rfl

/-! ## Quotient times divisor plus remainder (spec/42_muldiv.md, under REM) -/

theorem sdiv_mul_add_srem (a b : Word) : a.sdiv b * b + a.srem b = a := by
  have h : a.toInt.tdiv b.toInt * b.toInt + (a.toInt - b.toInt * a.toInt.tdiv b.toInt) = a.toInt := by ring
  calc a.sdiv b * b + a.srem b
      = BitVec.ofInt 32 (a.toInt.tdiv b.toInt * b.toInt + (a.toInt - b.toInt * a.toInt.tdiv b.toInt)) := by
        rw [BitVec.ofInt_add, BitVec.ofInt_mul, ← sdiv_eq_ofInt, ← srem_eq_ofInt, BitVec.ofInt_toInt]
    _ = a := by rw [h, BitVec.ofInt_toInt]

theorem alu_div_mul_add_rem (a b : Word) : alu .div a b * b + alu .rem a b = a := by
  simp only [alu, divSigned, remSigned]
  split
  · next hzero => subst hzero; rw [BitVec.mul_zero, BitVec.zero_add]
  · split
    · next _ hover => obtain ⟨rfl, rfl⟩ := hover; decide
    · exact sdiv_mul_add_srem a b

theorem udiv_mul_add_umod (a b : Word) : a / b * b + a % b = a := by
  have h : a.toNat / b.toNat * b.toNat + a.toNat % b.toNat = a.toNat := Nat.div_add_mod' ..
  calc a / b * b + a % b
      = BitVec.ofNat 32 (a.toNat / b.toNat * b.toNat + a.toNat % b.toNat) := by
        rw [BitVec.ofNat_add, BitVec.ofNat_mul, ← BitVec.toNat_udiv, ← BitVec.toNat_umod, ofNat_toNat_word,
          ofNat_toNat_word, ofNat_toNat_word]
    _ = a := by rw [h, ofNat_toNat_word]

theorem alu_divu_mul_add_remu (a b : Word) : alu .divu a b * b + alu .remu a b = a := by
  simp only [alu, divUnsigned, remUnsigned]
  split
  · next hzero => subst hzero; rw [BitVec.mul_zero, BitVec.zero_add]
  · exact udiv_mul_add_umod a b

/-- What a completed write leaves in its register, register 0 apart. -/
theorem exists_readReg_of_completes {i : Instr} {s : State} {rd : Reg} {v : Word} (hrd : rd ≠ 0) (h : Completes i s rd v) :
    ∃ t, exec i s = .next t ∧ t.readReg rd = v := by
  obtain ⟨t, hexec, hwrites, -⟩ := h
  exact ⟨t, hexec, (hwrites rd).trans (if_pos ⟨hrd, rfl⟩)⟩

/-- Two instructions that complete with the quotient and the remainder of a division recombine to the dividend if the values do. -/
theorem recombine_of_completes {i j : Instr} {s : State} {rd : Reg} {q r a b : Word} (hrd : rd ≠ 0) (hi : Completes i s rd q)
    (hj : Completes j s rd r) (h : q * b + r = a) :
    ∃ t u, exec i s = .next t ∧ exec j s = .next u ∧ t.readReg rd * b + u.readReg rd = a := by
  obtain ⟨t, hit, hq⟩ := exists_readReg_of_completes hrd hi
  obtain ⟨u, hju, hr⟩ := exists_readReg_of_completes hrd hj
  exact ⟨t, u, hit, hju, by rw [hq, hr, h]⟩

/-- Settles O16: the ALU's quotient and remainder recombine, special cases included, and are what the instructions leave. -/
theorem quotientTimesDivisorPlusRemainder : Obligations.QuotientTimesDivisorPlusRemainder := fun _ _ _ _ hrd =>
  ⟨recombine_of_completes hrd (completes_of_registerOp rfl) (completes_of_registerOp rfl) (alu_div_mul_add_rem ..),
    recombine_of_completes hrd (completes_of_registerOp rfl) (completes_of_registerOp rfl) (alu_divu_mul_add_remu ..)⟩

end Sys2Proof.Machine
end

section
/-!
PROOFS. Comparisons with an immediate, upper immediates, branches and jumps (spec/43_op_immediate.md, spec/45_branch.md,
spec/46_jump.md, spec/47_upper_immediate.md).
-/

namespace Sys2Proof.Machine
open Sys2Proof.Claims

/-! ## Set less than an immediate (R161, R162) -/

/-- The sign-extended immediate read as unsigned. -/
theorem immI_toNat (imm : BitVec 12) : ((immI imm).toNat : Int) = imm.toInt % 2 ^ 32 := by
  rw [toNat_eq_toInt_emod, immI_toInt]

theorem alu_slt_immI (a : Word) (imm : BitVec 12) :
    alu .slt a (immI imm) = if a.toInt < imm.toInt then 1#32 else 0#32 := by
  rw [alu_slt_eq_ite, immI_toInt]

theorem alu_sltu_immI (a : Word) (imm : BitVec 12) :
    alu .sltu a (immI imm) = if (a.toNat : Int) < imm.toInt % 2 ^ 32 then 1#32 else 0#32 := by
  rw [alu_sltu_eq_ite, ← immI_toNat]
  exact if_congr Int.ofNat_lt.symm rfl rfl

/-- Settles O18: the ALU compares with the sign-extended immediate, signed or unsigned. -/
theorem immediateComparisonResult : Obligations.ImmediateComparisonResult := by
  intro s rd rs1 imm
  refine ⟨?_, ?_⟩
  · rw [← alu_slt_immI]; exact completes_of_immediateOp rfl
  · rw [← alu_sltu_immI]; exact completes_of_immediateOp rfl

/-! ## Upper immediates (R195, R196) -/

theorem immU_eq_ofNat (imm20 : BitVec 20) : immU imm20 = BitVec.ofNat 32 (imm20.toNat * 2 ^ 12) := by
  rw [← immU_toNat, ofNat_toNat_word]

/-- Settles O20: LUI's value is the immediate itself, AUIPC's its sum with the program counter. -/
theorem upperImmediateResult : Obligations.UpperImmediateResult := by
  intro s rd imm20
  refine ⟨?_, ?_⟩
  · rw [← immU_eq_ofNat]; exact completesTo_of_commitReg rfl
  · rw [← immU_toNat, ← alu_add_eq_ofNat]; exact completesTo_of_commitReg rfl

/-! ## The comparator (R120) -/

section
variable (a b : Word)

theorem cmpWords_eq : cmpWords .eq a b = decide (a = b) := rfl
theorem cmpWords_ne : cmpWords .ne a b = decide (a ≠ b) := decide_not.symm
theorem cmpWords_lt : cmpWords .lt a b = decide (a.toInt < b.toInt) := rfl
theorem cmpWords_ge : cmpWords .ge a b = decide (a.toInt ≥ b.toInt) := by
  simp only [cmpWords, BitVec.slt, ge_iff_le, ← decide_not, Int.not_lt]
theorem cmpWords_ltu : cmpWords .ltu a b = decide (a.toNat < b.toNat) := rfl
theorem cmpWords_geu : cmpWords .geu a b = decide (a.toNat ≥ b.toNat) := by
  simp only [cmpWords, BitVec.ult, ge_iff_le, ← decide_not, Nat.not_lt]

end

/-- Settles O28: comparison by comparison; the three negations are how the comparator is made. -/
theorem comparatorTable : Obligations.ComparatorTable := fun a b =>
  ⟨cmpWords_eq a b, cmpWords_ne a b, cmpWords_lt a b, cmpWords_ge a b, cmpWords_ltu a b, cmpWords_geu a b, rfl, rfl, rfl⟩

/-! ## Branches (R121, R122, R180 to R185) -/

theorem goesTo_of_commitPc {i : Instr} {s : State} {target : Word} (h : exec i s = commitPc target s) : GoesTo i s target :=
  ⟨_, h, rfl, fun _ => rfl, fun _ => rfl, rfl, rfl, rfl⟩

/-- A branch goes where its comparison says. -/
theorem goesTo_of_branchOp {i : Instr} {s : State} {c : Comparison} {rs1 rs2 : Reg} {offset : BitVec 13} {p : Prop} [Decidable p]
    (h : exec i s = branchOp c rs1 rs2 offset s) (hc : cmpWords c (s.readReg rs1) (s.readReg rs2) = decide p) :
    GoesTo i s (if p then BitVec.ofInt 32 (s.pc.toNat + offset.toInt) else s.pc + 4#32) := by
  apply goesTo_of_commitPc
  rw [h, branchOp, hc, ← immB_toInt, ← add_eq_ofInt]
  simp only [decide_eq_true_eq, alu, State.pcPlus4]

/-- Settles O29: each branch is `branchOp` with its comparison, which the comparator's table gives. -/
theorem branchResult : Obligations.BranchResult := by
  rintro s rs1 rs2 offset _ rfl
  exact ⟨goesTo_of_branchOp rfl (cmpWords_eq ..), goesTo_of_branchOp rfl (cmpWords_ne ..),
    goesTo_of_branchOp rfl (cmpWords_lt ..), goesTo_of_branchOp rfl (cmpWords_ge ..),
    goesTo_of_branchOp rfl (cmpWords_ltu ..), goesTo_of_branchOp rfl (cmpWords_geu ..)⟩

/-! ## Jumps (R190, R191) -/

/-- Settles O30: the link is written and the target taken whole, as for any commit of a register. -/
theorem jumpResult : Obligations.JumpResult := by
  intro s rd rs1 offset imm
  refine ⟨?_, ?_⟩
  · rw [← immJ_toInt, ← add_eq_ofInt]; exact completesTo_of_commitReg rfl
  · rw [← immI_toInt, ← add_eq_ofInt]; exact completesTo_of_commitReg rfl

end Sys2Proof.Machine
end

section
/-!
PROOFS. Loads and stores where their access is allowed (spec/44_load_store.md, spec/20_memory.md): what they read and write as
little-endian values, what a load sees of a store before it, and that nothing but an access that is not allowed stops an instruction.
-/

namespace Sys2Proof.Machine
open Sys2Proof.Claims

/-! ## The little-endian value (R42) -/

theorem littleEndian_eq_load (m : Memory) (a : Nat) (w : Width) : littleEndian m a w.bytes = (m.load a w).toNat := by
  cases w with
  | byte => exact Nat.add_zero _
  | half => rw [Memory.load_half_toNat]; rfl
  | word => exact littleEndian_word m a

theorem ofNat_littleEndian (m : Memory) (a : Nat) (w : Width) :
    BitVec.ofNat w.bits (littleEndian m a w.bytes) = m.load a w := by
  rw [littleEndian_eq_load, BitVec.ofNat_toNat, BitVec.setWidth_eq]

theorem signExtended_load (m : Memory) (a : Nat) (w : Width) :
    signExtended w (m.load a w) = BitVec.ofInt 32 (BitVec.ofNat w.bits (littleEndian m a w.bytes)).toInt := by
  rw [ofNat_littleEndian]; rfl

theorem zeroExtended_load (m : Memory) (a : Nat) (w : Width) :
    zeroExtended w (m.load a w) = BitVec.ofNat 32 (littleEndian m a w.bytes) := by
  rw [littleEndian_eq_load, BitVec.ofNat_toNat]; rfl

/-- A word needs no extension (R124). -/
theorem signExtended_word (v : Word) : signExtended .word v = v := BitVec.signExtend_eq v

theorem signExtended_load_word (m : Memory) (a : Nat) :
    signExtended .word (m.load a .word) = BitVec.ofNat 32 (littleEndian m a 4) := by
  rw [signExtended_word, ← ofNat_littleEndian]; rfl

/-! ## Loads (R170 to R174) -/

theorem accessFault_none_of_bytesExist {s : State} {a : Word} {w : Width} (kind : AccessKind) (h : a.toNat % w.bytes = 0)
    (hb : BytesExist s a.toNat w.bytes) : accessFault s kind a w = none :=
  accessFault_none_iff.mpr ⟨h, rangeExists_of_bytesExist hb⟩

theorem completes_of_loadOp {i : Instr} {s : State} {w : Width} {extend : BitVec w.bits → Word} {rd rs1 : Reg} {imm : Word}
    (h : exec i s = loadOp w extend rd rs1 imm s) (ha : accessFault s .load (s.effectiveAddress rs1 imm) w = none) :
    Completes i s rd (extend (s.mem.load (s.effectiveAddress rs1 imm).toNat w)) :=
  completesTo_of_commitReg (h.trans (loadOp_of_none ha))

theorem completes_signed_of_loadOp (w : Width) {i : Instr} {s : State} {rd rs1 : Reg} {imm : Word}
    (h : exec i s = loadOp w (signExtended w) rd rs1 imm s) (ha : accessFault s .load (s.effectiveAddress rs1 imm) w = none) :
    Completes i s rd (BitVec.ofInt 32
      (BitVec.ofNat w.bits (littleEndian s.mem (s.effectiveAddress rs1 imm).toNat w.bytes)).toInt) := by
  rw [← signExtended_load]
  exact completes_of_loadOp h ha

theorem completes_unsigned_of_loadOp (w : Width) {i : Instr} {s : State} {rd rs1 : Reg} {imm : Word}
    (h : exec i s = loadOp w (zeroExtended w) rd rs1 imm s) (ha : accessFault s .load (s.effectiveAddress rs1 imm) w = none) :
    Completes i s rd (BitVec.ofNat 32 (littleEndian s.mem (s.effectiveAddress rs1 imm).toNat w.bytes)) := by
  rw [← zeroExtended_load]
  exact completes_of_loadOp h ha

/-- Settles O22: every load is `loadOp` at its width, and what it reads is the little-endian value. -/
theorem loadResult : Obligations.LoadResult := by
  rintro s rd rs1 imm _ rfl
  refine ⟨fun hb => ?_, fun h hb => ?_, fun h hb => ?_⟩
  · have ha := accessFault_none_of_bytesExist .load (aligned_byte _) hb
    exact ⟨completes_signed_of_loadOp .byte rfl ha, completes_unsigned_of_loadOp .byte rfl ha⟩
  · have ha := accessFault_none_of_bytesExist (w := .half) .load h hb
    exact ⟨completes_signed_of_loadOp .half rfl ha, completes_unsigned_of_loadOp .half rfl ha⟩
  · have ha := accessFault_none_of_bytesExist (w := .word) .load h hb
    rw [← signExtended_load_word]
    exact completes_of_loadOp rfl ha

/-! ## Stores (R45, R175 to R177) -/

/-- Byte `k` of what a store leaves at its address (R42). -/
theorem Memory.read_store_truncated (m : Memory) (a : Nat) (w : Width) (v : Word) {k : Nat} (hk : k < w.bytes) :
    (m.store a w (truncated w v)).read (a + k) = BitVec.ofNat 8 (v.toNat / 2 ^ (8 * k)) := by
  rw [Memory.read_store, dif_pos ⟨Nat.le_add_right a k, Nat.add_lt_add_left hk a⟩, bytesOf_truncated, Nat.add_sub_cancel_left]

theorem stores_of_storeOp {i : Instr} {s : State} {w : Width} {rs2 rs1 : Reg} {imm : Word}
    (h : exec i s = storeOp w rs2 rs1 imm s) (ha : accessFault s .store (s.effectiveAddress rs1 imm) w = none) :
    Stores i s (s.effectiveAddress rs1 imm).toNat w.bytes (s.readReg rs2) :=
  ⟨_, h.trans (storeOp_of_none ha), rfl, fun _ => rfl, ⟨rfl, rfl, rfl⟩,
    fun _ hk => Memory.read_store_truncated _ _ _ _ hk, fun _ hb => Memory.read_store_outside _ _ _ hb⟩

/-- Settles O23: every store is `storeOp` at its width. -/
theorem storeResult : Obligations.StoreResult := by
  rintro s rs2 rs1 imm _ rfl
  refine ⟨fun hb => ?_, fun h hb => ?_, fun h hb => ?_⟩
  · exact stores_of_storeOp (w := .byte) rfl (accessFault_none_of_bytesExist .store (aligned_byte _) hb)
  · exact stores_of_storeOp (w := .half) rfl (accessFault_none_of_bytesExist .store h hb)
  · exact stores_of_storeOp (w := .word) rfl (accessFault_none_of_bytesExist .store h hb)

/-! ## A load after a store (R53) -/

/-- The bytes of an allowed access may be accessed one by one, for any purpose. -/
theorem accessFault_byte_none {s : State} {kind : AccessKind} {a b : Word} {w : Width} {k : Nat} (kind' : AccessKind)
    (h : accessFault s kind a w = none) (hk : k < w.bytes) (hb : b.toNat = a.toNat + k) :
    accessFault s kind' b .byte = none := by
  obtain ⟨-, hrange⟩ := accessFault_none_iff.mp h
  refine accessFault_none_iff.mpr ⟨aligned_byte b, rangeExists_of_addresses fun c hlo hhi => ?_⟩
  simp only [Width.bytes] at hhi
  exact addressExists_of_range hrange (by omega) (by omega)

theorem zeroExtended_byte_ofNat (x : Nat) : zeroExtended .byte (BitVec.ofNat 8 x) = BitVec.ofNat 32 (x % 2 ^ 8) := by
  rw [← BitVec.toNat_ofNat, BitVec.ofNat_toNat]; rfl

/-- Settles O26: the store's check allows the loads, a word reads back whole, and byte `k` of a store is byte `k` of its value. -/
theorem storeThenLoad : Obligations.StoreThenLoad := by
  intro s t rs2 rs1 rd base imm imm' h
  obtain ⟨hallowed, ht⟩ := storeOp_next h
  have hmem : t.mem = s.mem.store (s.effectiveAddress rs1 (immS imm)).toNat .word (truncated .word (s.readReg rs2)) :=
    congrArg State.mem ht
  have hcfg : t.cfg = s.cfg := by rw [ht]
  refine ⟨fun haddr => ?_, fun k hk haddr => ?_⟩
  · have hload := completes_of_loadOp (i := .lw rd base imm') rfl (accessFault_none_of_cfg hcfg (haddr ▸ hallowed))
    rwa [haddr, hmem, Memory.load_store, truncated_word, signExtended_word] at hload
  · have hload := completes_of_loadOp (i := .lbu rd base imm') rfl
      (accessFault_byte_none .load (accessFault_none_of_cfg (kind' := .load) hcfg hallowed) hk haddr)
    rwa [haddr, hmem, Memory.load, Memory.read_store_truncated _ _ _ _ hk, zeroExtended_byte_ofNat] at hload

/-! ## What can stop an instruction (R212, R213) -/

/-- An instruction completes if it makes no data access or its access is allowed. -/
theorem exists_next_of_access {i : Instr} {s : State}
    (h : ∀ kind a w, dataAccess s i = some (kind, a, w) → accessFault s kind a w = none) : ∃ t, exec i s = .next t := by
  cases i with
  | lb | lh | lw | lbu | lhu => exact ⟨_, loadOp_of_none (h _ _ _ rfl)⟩
  | sb | sh | sw => exact ⟨_, storeOp_of_none (h _ _ _ rfl)⟩
  | _ => exact ⟨_, rfl⟩

/-- Settles O46: the check of its access decides whether an instruction completes, and gives the fault if it does not. -/
theorem onlyDataAccessesFault : Obligations.OnlyDataAccessesFault := by
  intro i s
  refine ⟨fun h => exists_next_of_access fun kind a w hacc => ?_, fun f hf => ?_⟩
  · obtain ⟨haligned, hexist⟩ := h kind a w hacc
    exact accessFault_none_of_bytesExist kind haligned hexist
  · obtain ⟨kind, a, w, hacc, hfault⟩ := exec_fault hf
    obtain ⟨r, hr, hmis⟩ := accessFault_some hfault
    exact ⟨kind, r, a, w, hacc, hr, hmis⟩

end Sys2Proof.Machine
end

section
/-!
PROOFS. ECALL, the halting steps and what each step emits (spec/48_system.md, spec/60_exceptions.md section 4).
-/

namespace Sys2Proof.Machine
open Sys2Proof.Claims

/-- Settles O32: the state an ECALL leaves, field by field. -/
theorem ecallResult : Obligations.EcallResult := fun s =>
  ⟨s.afterEcall, exec_ecall s, rfl, rfl, rfl, fun _ => rfl, fun _ => rfl, rfl⟩

theorem clock_haltPending {s : State} (h : s.run = .haltPending) : clock s = (.ok, s.afterHalt) := by
  rw [clock_of_next (step_haltPending_afterHalt h), if_neg (by rw [h]; decide)]

theorem clock_halted {s : State} (h : s.run = .halted) : clock s = (.halted, s) := by
  rw [clock_of_next (step_halted h), if_pos h]

/-- Settles O34: the two cycles that fetch nothing, as `clock` answers them. -/
theorem haltingSteps : Obligations.HaltingSteps := fun _ => ⟨clock_haltPending, clock_halted⟩

/-- The instruction fetched is ECALL exactly where the word at the program counter has the SYSTEM opcode (R78). -/
theorem fetchInstr_ecall_iff {s : State} {i : Instr} (h : fetchInstr s = .ok i) :
    i = .ecall ↔ opcodeOf (wordAtPc s) = 0b1110011#7 := by
  obtain ⟨-, hd⟩ := fetchInstr_ok_iff.mp h
  rw [← wordAtPc_eq_load] at hd
  rw [← decodeWord_ecall_iff, hd, Except.ok.injEq]

theorem exec_trace {i : Instr} {s t : State} (h : exec i s = .next t) :
    t.trace = s.trace ++ if i = .ecall then [.ecallNotify s.pc s.regs] else [] := by
  split
  · next hi => subst hi; cases h; rfl
  · next hi => rw [((exec_next h).run_trace_of_ne_ecall hi).2, List.append_nil]

/-- Settles O36, by the three kinds of steps that answer a next state. -/
theorem notificationsOfAStep : Obligations.NotificationsOfAStep := by
  intro s t h
  rcases step_next h with ⟨hr, rfl⟩ | ⟨hr, rfl⟩ | ⟨hr, i, hfetch, hexec⟩
  · simp [hr]
  · simp [hr]
  · simp [hr, exec_trace hexec, fetchInstr_ecall_iff hfetch]

end Sys2Proof.Machine
end
